-- ==== Sys2Proof/Word.lean ====
section
/-! DEFINITION. The bit-vector types of the CHIP-8 core (spec/00_scope.md rules R9, R11). -/

namespace Sys2Proof

/-- A memory cell or a general register: 8 bits (R21, R50). -/
abbrev Byte := BitVec 8

/-- An instruction word, `pc`, `I` or a call-stack slot: 16 bits (R9, R24, R28, R29). -/
abbrev Word := BitVec 16

/-- One 4-bit field of an instruction word (R85). -/
abbrev Nibble := BitVec 4

/-- The 12-bit immediate `nnn` (R86). -/
abbrev Addr12 := BitVec 12

end Sys2Proof
end

