-- ==== Sys2Proof/Syntax.lean ====
section
/-! DEFINITION. The 34 instructions of spec/30_encoding.md rule R90 (spec/opcode_table.json), as a tagged variant
over all instruction kinds (R115). -/

namespace Sys2Proof

/-- The number of a general register V0..VF (R21, R83, R84). -/
abbrev Reg := Fin 16

/-- V[15], the flag register (R22, R27). -/
abbrev vf : Reg := 15

/-- One constructor per row of the opcode map R90, in the map's order. An operand's type holds exactly the values its
field can hold (R83 to R86), so no ill-formed operand can be written. -/
inductive Instr
  | cls
  | ret
  | jpNnn (nnn : Addr12)
  | callNnn (nnn : Addr12)
  | seVxNn (x : Reg) (nn : Byte)
  | sneVxNn (x : Reg) (nn : Byte)
  | seVxVy (x y : Reg)
  | ldVxNn (x : Reg) (nn : Byte)
  | addVxNn (x : Reg) (nn : Byte)
  | ldVxVy (x y : Reg)
  | orVxVy (x y : Reg)
  | andVxVy (x y : Reg)
  | xorVxVy (x y : Reg)
  | addVxVy (x y : Reg)
  | subVxVy (x y : Reg)
  /-- `y` is encoded and ignored (R182). -/
  | shrVxVy (x y : Reg)
  | subnVxVy (x y : Reg)
  /-- `y` is encoded and ignored (R184). -/
  | shlVxVy (x y : Reg)
  | sneVxVy (x y : Reg)
  | ldINnn (nnn : Addr12)
  | jpV0Nnn (nnn : Addr12)
  | rndVxNn (x : Reg) (nn : Byte)
  | drwVxVyN (x y : Reg) (n : Nibble)
  | skpVx (x : Reg)
  | sknpVx (x : Reg)
  | ldVxDt (x : Reg)
  | ldVxK (x : Reg)
  | ldDtVx (x : Reg)
  | ldStVx (x : Reg)
  | addIVx (x : Reg)
  | ldFVx (x : Reg)
  | ldBVx (x : Reg)
  | ldMemIVx (x : Reg)
  | ldVxMemI (x : Reg)
  deriving DecidableEq, Repr

end Sys2Proof
end

