-- ==== Sys2Proof/WellFormed.lean ====
section
/-! DEFINITION. Well-formedness. A term of `Instr` needs no check of its own: its operand types (`Fin 16`, `BitVec 4`,
`BitVec 8`, `BitVec 12`) hold exactly the values the fields of spec/30_encoding.md rules R83 to R86 and R88 hold, so an
ill-formed operand cannot be written. What is left to check is a row of the opcode map and a program image. -/

namespace Sys2Proof

/-- A row of the opcode map fixes no bit outside its mask (R90). -/
def wfPattern (mask pattern : Word) : Bool := pattern &&& mask == pattern

/-- Two rows name a bit that both fix, and fix it differently, so no word matches both (R90: "the rows are pairwise
disjoint"). -/
def disjointPatterns (mask₁ pattern₁ mask₂ pattern₂ : Word) : Bool :=
  (mask₁ &&& mask₂) &&& (pattern₁ ^^^ pattern₂) != 0

/-- The size of the program area 0x200..0xFFF, 3584 bytes (R303). -/
def imageCapacity : Nat := 0x1000 - 0x200

/-- A program image fits between 0x200 and the top of memory (R303). -/
def wfImage (bytes : List Byte) : Bool := bytes.length ≤ imageCapacity

end Sys2Proof
end

