-- ==== Sys2Proof/Decode.lean ====
section
/-! DEFINITION. The decoder and, after it, the encoder (spec/30_encoding.md). The opcode map is a list of rows, as in
rule R90 and spec/opcode_table.json: a word selects the row whose fixed bits it matches (R114). -/

namespace Sys2Proof

/-! ## The fields of a word (R82 to R86) -/

/-- `f = op[15:12]`, the family selector (R82). -/
def famOf (op : Word) : Nibble := op.extractLsb' 12 4

/-- `x = op[11:8]` (R83). -/
def xOf (op : Word) : Reg := (op.extractLsb' 8 4).toFin

/-- `y = op[7:4]` (R84). -/
def yOf (op : Word) : Reg := (op.extractLsb' 4 4).toFin

/-- `n = op[3:0]` (R85). -/
def nOf (op : Word) : Nibble := op.extractLsb' 0 4

/-- `nn = op[7:0]` (R85). -/
def nnOf (op : Word) : Byte := op.extractLsb' 0 8

/-- `nnn = op[11:0]` (R86). -/
def nnnOf (op : Word) : Addr12 := op.extractLsb' 0 12

/-! ## The opcode map (R90) -/

/-- One row of the opcode map: a word `op` with `op & mask = pattern` is the instruction `read op`. -/
structure Row where
  mnemonic : String
  mask     : Word
  pattern  : Word
  read     : Word → Instr

/-- The word has the bits the row fixes (R114). -/
def Row.fits (r : Row) (op : Word) : Bool := op &&& r.mask == r.pattern

/-- Families 0 to 7 and 9 to C: control flow, immediates, index load, random. -/
def plainRows : List Row :=
  [⟨"CLS",        0xFFFF, 0x00E0, fun _ => .cls⟩,
   ⟨"RET",        0xFFFF, 0x00EE, fun _ => .ret⟩,
   ⟨"JP_nnn",     0xF000, 0x1000, fun op => .jpNnn (nnnOf op)⟩,
   ⟨"CALL_nnn",   0xF000, 0x2000, fun op => .callNnn (nnnOf op)⟩,
   ⟨"SE_Vx__nn",  0xF000, 0x3000, fun op => .seVxNn (xOf op) (nnOf op)⟩,
   ⟨"SNE_Vx__nn", 0xF000, 0x4000, fun op => .sneVxNn (xOf op) (nnOf op)⟩,
   ⟨"SE_Vx__Vy",  0xF00F, 0x5000, fun op => .seVxVy (xOf op) (yOf op)⟩,
   ⟨"LD_Vx__nn",  0xF000, 0x6000, fun op => .ldVxNn (xOf op) (nnOf op)⟩,
   ⟨"ADD_Vx__nn", 0xF000, 0x7000, fun op => .addVxNn (xOf op) (nnOf op)⟩,
   ⟨"SNE_Vx__Vy", 0xF00F, 0x9000, fun op => .sneVxVy (xOf op) (yOf op)⟩,
   ⟨"LD_I__nnn",  0xF000, 0xA000, fun op => .ldINnn (nnnOf op)⟩,
   ⟨"JP_V0__nnn", 0xF000, 0xB000, fun op => .jpV0Nnn (nnnOf op)⟩,
   ⟨"RND_Vx__nn", 0xF000, 0xC000, fun op => .rndVxNn (xOf op) (nnOf op)⟩,
   ⟨"DRW_Vx__Vy__n", 0xF000, 0xD000, fun op => .drwVxVyN (xOf op) (yOf op) (nOf op)⟩]

/-- Family 8: register with register; `n` selects the function (R85). -/
def registerRows : List Row :=
  [⟨"LD_Vx__Vy",    0xF00F, 0x8000, fun op => .ldVxVy (xOf op) (yOf op)⟩,
   ⟨"OR_Vx__Vy",    0xF00F, 0x8001, fun op => .orVxVy (xOf op) (yOf op)⟩,
   ⟨"AND_Vx__Vy",   0xF00F, 0x8002, fun op => .andVxVy (xOf op) (yOf op)⟩,
   ⟨"XOR_Vx__Vy",   0xF00F, 0x8003, fun op => .xorVxVy (xOf op) (yOf op)⟩,
   ⟨"ADD_Vx__Vy",   0xF00F, 0x8004, fun op => .addVxVy (xOf op) (yOf op)⟩,
   ⟨"SUB_Vx__Vy",   0xF00F, 0x8005, fun op => .subVxVy (xOf op) (yOf op)⟩,
   ⟨"SHR_Vx____Vy", 0xF00F, 0x8006, fun op => .shrVxVy (xOf op) (yOf op)⟩,
   ⟨"SUBN_Vx__Vy",  0xF00F, 0x8007, fun op => .subnVxVy (xOf op) (yOf op)⟩,
   ⟨"SHL_Vx____Vy", 0xF00F, 0x800E, fun op => .shlVxVy (xOf op) (yOf op)⟩]

/-- Families E and F: keys, timers, index, memory; `nn` selects the function (R85). -/
def selectedRows : List Row :=
  [⟨"SKP_Vx",    0xF0FF, 0xE09E, fun op => .skpVx (xOf op)⟩,
   ⟨"SKNP_Vx",   0xF0FF, 0xE0A1, fun op => .sknpVx (xOf op)⟩,
   ⟨"LD_Vx__DT", 0xF0FF, 0xF007, fun op => .ldVxDt (xOf op)⟩,
   ⟨"LD_Vx__K",  0xF0FF, 0xF00A, fun op => .ldVxK (xOf op)⟩,
   ⟨"LD_DT__Vx", 0xF0FF, 0xF015, fun op => .ldDtVx (xOf op)⟩,
   ⟨"LD_ST__Vx", 0xF0FF, 0xF018, fun op => .ldStVx (xOf op)⟩,
   ⟨"ADD_I__Vx", 0xF0FF, 0xF01E, fun op => .addIVx (xOf op)⟩,
   ⟨"LD_F__Vx",  0xF0FF, 0xF029, fun op => .ldFVx (xOf op)⟩,
   ⟨"LD_B__Vx",  0xF0FF, 0xF033, fun op => .ldBVx (xOf op)⟩,
   ⟨"LD__I___Vx", 0xF0FF, 0xF055, fun op => .ldMemIVx (xOf op)⟩,
   ⟨"LD_Vx___I", 0xF0FF, 0xF065, fun op => .ldVxMemI (xOf op)⟩]

/-- The complete opcode map (R90). The patterns of 1NNN, 6XNN and 8XY4 are the source's, the other 31 are the spec's
general knowledge: PRESUMED, unsafe (log entries 1 to 3). -/
def opcodeTable : List Row := plainRows ++ registerRows ++ selectedRows

/-! ## The decoder -/

/-- The instruction a word is, or none for an unknown word (R92, R114). -/
def decodeWord (op : Word) : Option Instr :=
  (opcodeTable.find? (·.fits op)).map (·.read op)

/-- Why bytes do not decode. -/
inductive DecodeError
  /-- Fewer than two bytes are left (every instruction is two bytes, R80). -/
  | truncated
  /-- The word matches no row: an unknown instruction, carrying the word (R92, R118). -/
  | unknown (op : Word)
  deriving DecidableEq, Repr

/-- The word of two bytes, the most significant byte first (R51, R80). -/
def wordOfBytes (hi lo : Byte) : Word := hi ++ lo

/-- The instruction at the head of a byte sequence, and the rest of it (R80, R81, R94). -/
def decode : List Byte → Except DecodeError (Instr × List Byte)
  | hi :: lo :: rest =>
    match decodeWord (wordOfBytes hi lo) with
    | some i => .ok (i, rest)
    | none => .error (.unknown (wordOfBytes hi lo))
  | _ => .error .truncated

/-- The two bytes of a word as memory holds them: the high byte at the lower address (R51). -/
def bytesOfWord (op : Word) : List Byte := [op.extractLsb' 8 8, op.extractLsb' 0 8]

/-- The word an opcode-table numbering gives: bit 0 is the least significant bit, the bits above `nbits` are 0. -/
def wordOfTable (nbits w : Nat) : Word := BitVec.ofNat 16 (w % 2 ^ nbits)

/-- What the decoder reads from an instruction whose bits are `w` (the host's question). -/
def decodeTableWord (nbits w : Nat) : Option Instr :=
  match decode (bytesOfWord (wordOfTable nbits w)) with
  | .ok (i, _) => some i
  | .error _ => none

/-! ## The encoder, by the formats of R87 -/

/-- A register number as a 4-bit field (R83, R84). -/
def regField (x : Reg) : Nibble := BitVec.ofFin x

/-- Format `nnn`: f, nnn. -/
def formatNnn (f : Nibble) (nnn : Addr12) : Word := f ++ nnn

/-- Format `xnn`: f, x, nn. Format `x` is the same with `nn` the function selector. -/
def formatXnn (f : Nibble) (x : Reg) (nn : Byte) : Word := f ++ regField x ++ nn

/-- Format `xyn`: f, x, y, n. Format `xy` is the same with `n` the function selector. -/
def formatXyn (f : Nibble) (x y : Reg) (n : Nibble) : Word := f ++ regField x ++ regField y ++ n

/-- The word of an instruction (R87, R90). -/
def encode : Instr → Word
  | .cls => 0x00E0
  | .ret => 0x00EE
  | .jpNnn nnn => formatNnn 0x1 nnn
  | .callNnn nnn => formatNnn 0x2 nnn
  | .seVxNn x nn => formatXnn 0x3 x nn
  | .sneVxNn x nn => formatXnn 0x4 x nn
  | .seVxVy x y => formatXyn 0x5 x y 0x0
  | .ldVxNn x nn => formatXnn 0x6 x nn
  | .addVxNn x nn => formatXnn 0x7 x nn
  | .ldVxVy x y => formatXyn 0x8 x y 0x0
  | .orVxVy x y => formatXyn 0x8 x y 0x1
  | .andVxVy x y => formatXyn 0x8 x y 0x2
  | .xorVxVy x y => formatXyn 0x8 x y 0x3
  | .addVxVy x y => formatXyn 0x8 x y 0x4
  | .subVxVy x y => formatXyn 0x8 x y 0x5
  | .shrVxVy x y => formatXyn 0x8 x y 0x6
  | .subnVxVy x y => formatXyn 0x8 x y 0x7
  | .shlVxVy x y => formatXyn 0x8 x y 0xE
  | .sneVxVy x y => formatXyn 0x9 x y 0x0
  | .ldINnn nnn => formatNnn 0xA nnn
  | .jpV0Nnn nnn => formatNnn 0xB nnn
  | .rndVxNn x nn => formatXnn 0xC x nn
  | .drwVxVyN x y n => formatXyn 0xD x y n
  | .skpVx x => formatXnn 0xE x 0x9E
  | .sknpVx x => formatXnn 0xE x 0xA1
  | .ldVxDt x => formatXnn 0xF x 0x07
  | .ldVxK x => formatXnn 0xF x 0x0A
  | .ldDtVx x => formatXnn 0xF x 0x15
  | .ldStVx x => formatXnn 0xF x 0x18
  | .addIVx x => formatXnn 0xF x 0x1E
  | .ldFVx x => formatXnn 0xF x 0x29
  | .ldBVx x => formatXnn 0xF x 0x33
  | .ldMemIVx x => formatXnn 0xF x 0x55
  | .ldVxMemI x => formatXnn 0xF x 0x65

/-- The bytes of an instruction as memory holds them (R51, R80). -/
def encodeBytes (i : Instr) : List Byte := bytesOfWord (encode i)

end Sys2Proof
end

