-- ==== Sys2Proof/Config.lean ====
section
/-! DEFINITION. What one machine is built with: the named parameters of spec/00_scope.md rule R10, the random source of
spec/42_arithmetic.md rule R189, and the host's free schedule of spec/60_exceptions.md rules R277 and R284. Every
parameter of R10 is a field of `Config`, and `State` carries one `Config`, so a statement about every state holds for
every value of every parameter. -/

namespace Sys2Proof

/-- `INDEX_ADD_POLICY` of R10: what FX1E does when the sum leaves 0x000..0xFFF (R236). -/
inductive IndexAddPolicy
  | fault
  | wrap12
  | wrap16
  deriving DecidableEq, Repr

/-- `FONT_WRITE_POLICY` of R10: what a store that starts at 0x000..0x04F does (R58). -/
inductive FontWritePolicy
  | fault
  | allow
  deriving DecidableEq, Repr

/-- `FONT_TABLE` of R10: the 80 bytes of MEM[0x000..0x04F] after reset (R55). -/
abbrev FontTable := Vector Byte 80

/-- The parameters of rule R10, but for `RNG`. No step changes them. -/
structure Config where
  fontTable     : FontTable
  indexAdd      : IndexAddPolicy
  fontWrite     : FontWritePolicy
  /-- `HALT_ON_UNKNOWN`: the host stops invoking cycles after the first `Unknown` (R263). -/
  haltOnUnknown : Bool
  deriving DecidableEq, Repr

/-- The default `FONT_TABLE`: the conventional hexadecimal font of R55, one glyph a line.
PRESUMED, unsafe (log entry 4): the source gives no font byte. -/
def Config.conventionalFont : FontTable :=
  #v[0xF0, 0x90, 0x90, 0x90, 0xF0,
     0x20, 0x60, 0x20, 0x20, 0x70,
     0xF0, 0x10, 0xF0, 0x80, 0xF0,
     0xF0, 0x10, 0xF0, 0x10, 0xF0,
     0x90, 0x90, 0xF0, 0x10, 0x10,
     0xF0, 0x80, 0xF0, 0x10, 0xF0,
     0xF0, 0x80, 0xF0, 0x90, 0xF0,
     0xF0, 0x10, 0x20, 0x40, 0x40,
     0xF0, 0x90, 0xF0, 0x90, 0xF0,
     0xF0, 0x90, 0xF0, 0x10, 0xF0,
     0xF0, 0x90, 0xF0, 0x90, 0x90,
     0xE0, 0x90, 0xE0, 0x90, 0xE0,
     0xF0, 0x80, 0x80, 0x80, 0xF0,
     0xE0, 0x90, 0x90, 0x90, 0xE0,
     0xF0, 0x80, 0xF0, 0x80, 0xF0,
     0xF0, 0x80, 0xF0, 0x80, 0x80]

/-- The defaults of R10. DESIGN CHOICE of the spec (its decisions D6, D13, D15, D33; log entries 4 to 7). -/
def Config.default : Config where
  fontTable     := Config.conventionalFont
  indexAdd      := .fault
  fontWrite     := .fault
  haltOnUnknown := false

/-- FREE VALUE. The byte the random source `RNG` gives at its `k`-th draw (R189): any of the 256 values, with no law
between draws. It has no body here, so no proof can learn a value of it. DESIGN CHOICE, safe (log entry 8). -/
opaque Config.randomByte : Nat → Byte

namespace Machine

/-- The core's entry points (R110), as the host calls them. The random byte of `Cycle(r)` is a draw (R121, R189). -/
inductive Call
  | reset
  | load (bytes : List Byte)
  | cycle
  | tick
  | setKey (k : Fin 16) (pressed : Bool)
  | readDisplay
  | ackDisplay
  deriving DecidableEq, Repr, Inhabited

end Machine

/-- FREE VALUE. The host's `k`-th call of its own choice, made when no call waits in the state: any entry point with any
inputs, at any time and without end (R277, R284). It has no body here, so no proof can learn a value of it. DESIGN CHOICE,
safe (log entry 38). -/
opaque Config.hostCall : Nat → Machine.Call

end Sys2Proof
end

