-- ==== Sys2Proof/Machine/State.lean ====
section
/-! DEFINITION. The state of the core (spec/10_state.md rule R20) and of its interface to the host
(spec/60_exceptions.md, spec/70_reset_and_hazards.md), as plain data, and the state right after reset (R40). -/

namespace Sys2Proof.Machine

/-- MEM: the bytes that differ from what their address reads as when nothing was written there, in rising order of
address (`Memory.wf`; R50, log entry 33). -/
abbrev Memory := List Host.Cell

/-- DISP: 32 rows of 64 cells, true meaning on; DISP[c][r] is cell `c` of row `r` (R34). -/
abbrev Display := Vector (Vector Bool 64) 32

/-- The kinds of fatal error (R260). -/
inductive FatalKind
  /-- CALL at SP = 16 (R144). -/
  | stackOverflow
  /-- RET at SP = 0 (R141). -/
  | stackUnderflow
  /-- A fetch, DXYN, FX33, FX55 or FX65 span past 0xFFF, or FX1E under the policy `fault` (R57, R112, R236). -/
  | memoryOutOfRange
  /-- FX33 or FX55 starting at I <= 0x04F under the policy `fault` (R58). -/
  | readOnlyWrite
  /-- EX9E or EXA1 with V[x] > 15 (R221). -/
  | keyIndexOutOfRange
  deriving DecidableEq, Repr

/-- `Fatal(kind, info)`: the kind and the address or value it carries (R260). -/
structure FatalError where
  kind : FatalKind
  info : Nat
  deriving DecidableEq, Repr

/-- `Unknown(op, addr)`: the word that matched no row and the address it was fetched from (R118). -/
structure UnknownReport where
  op   : Word
  addr : Word
  deriving DecidableEq, Repr

/-- What the core gives back for a call (R110, R260). -/
inductive Reply
  /-- The call gives nothing back (Reset, Tick, SetKey, AckDisplay), or none was made yet. -/
  | nothing
  /-- A cycle that completed (R115), or a load that was taken (R303). -/
  | ok
  /-- A cycle whose word matches no row (R118). -/
  | unknown (report : UnknownReport)
  /-- A cycle that raised a fatal error, or ran on a halted core (R111, R266). -/
  | fatal (error : FatalError)
  /-- A load of too many bytes; their count (R303). -/
  | loadOverflow (count : Nat)
  /-- The snapshot of ReadDisplay (R282). -/
  | display (cells : Display) (dirty : Bool)
  deriving DecidableEq, Repr

/-- Where a session stands in the boot order of R304. -/
inductive Phase
  | beforeLoad
  | loaded
  | running
  deriving DecidableEq, Repr

/-- The state. The first twelve fields are the core's own and all it has (R20). The last seven are the model's record of
the machine's parameters and of the host's side of the interface (log entries 4 to 8, 27 to 29 and 38). -/
structure State where
  /-- MEM (R50). -/
  mem   : Memory
  /-- V[0..15] (R21). -/
  v     : Vector Byte 16
  /-- I (R28). -/
  index : Word
  /-- The address of the next opcode to fetch (R24). -/
  pc    : Word
  /-- STACK[0..15] (R29). -/
  stack : Vector Word 16
  /-- SP, the number of slots in use, 0..16 (R29, R30). -/
  sp    : Fin 17
  /-- DT (R31). -/
  dt    : Byte
  /-- ST (R32). -/
  st    : Byte
  /-- KEY[0..15], true meaning pressed (R33). -/
  key   : Vector Bool 16
  /-- DISP (R34). -/
  disp  : Display
  /-- DIRTY (R35). -/
  dirty : Bool
  /-- HALT (R36). -/
  halt  : Option FatalError
  /-- The parameters of R10; no step writes them. -/
  cfg   : Config
  /-- How many bytes RNG has given so far: the argument of the next free value (R189; log entry 8). -/
  draws : Nat
  /-- The host's calls already chosen and not yet answered, oldest first (R284; log entry 27). -/
  calls : List Call
  /-- How many calls the host has chosen freely so far: the argument of the next free call (R277; log entry 38). -/
  hostTurn : Nat
  /-- The result of the last answered call (log entry 28). -/
  reply : Reply
  /-- The `Unknown` reports of this session, newest first (R263; log entry 28). -/
  unknowns : List UnknownReport
  /-- Where the session stands in the boot order (R304; log entry 29). -/
  phase : Phase
  deriving DecidableEq, Repr

/-- Why a step stops with a fault. No instruction raises one: the fatal errors of R260 are next states (log entry 11). -/
inductive Fault
  /-- Raised by a cycle when HALT_ON_UNKNOWN is true and an `Unknown` was reported: the host makes no further cycle in
  this session (R263; log entry 7). Safe: the run ends where the host ends it. -/
  | hostStopsCycling
  deriving DecidableEq, Repr

/-- Why a step is refused. -/
inductive Refusal
  /-- An instruction that has no meaning yet. No arm of `exec` answers so now. Safe. -/
  | notModelled (mnemonic : String)
  /-- Raised by a `Load` after a first taken `Load` or after the first cycle of a session, which R304 says is not a
  transaction of the core (log entry 29). Safe: such a run has no next state. -/
  | loadOutsideBoot
  deriving DecidableEq, Repr

/-- The state right after reset: the table of R40, with the default parameters of R10 and no call chosen yet. Every value
but `pc` and the font is the spec's decision D25: DESIGN CHOICE, unsafe (log entry 9). -/
def State.reset : State where
  mem   := []
  v     := Vector.replicate 16 0x00
  index := 0x0000
  pc    := 0x0200
  stack := Vector.replicate 16 0x0000
  sp    := 0
  dt    := 0x00
  st    := 0x00
  key   := Vector.replicate 16 false
  disp  := Vector.replicate 32 (Vector.replicate 64 false)
  dirty := false
  halt  := none
  cfg   := Config.default
  draws := 0
  calls := []
  hostTurn := 0
  reply := .nothing
  unknowns := []
  phase := .beforeLoad

end Sys2Proof.Machine
end

