-- ==== Sys2Proof/Machine/Ops.lean ====
section
/-! DEFINITION. The named operations over memory, registers, the call stack and `pc`, the range checks, and taking a
fatal error (spec/20_memory.md, spec/10_state.md, spec/60_exceptions.md). -/

namespace Sys2Proof.Machine

/-! ## Memory: a list in canonical form (log entry 33) -/

/-- What an address reads as when nothing was written there: its content after reset (R40, R54, R55). -/
def Memory.unlisted (font : FontTable) (a : Nat) : Byte :=
  if h : a < 80 then font[a] else 0x00

/-- `MemRead(a, 1)` (R14). -/
def Memory.read (font : FontTable) : Memory → Nat → Byte
  | [], a => Memory.unlisted font a
  | (k, b) :: rest, a => if k = a then b else Memory.read font rest a

/-- `MemWrite(a, 1, b)` (R14), which lists no byte that reads as its address does unlisted. -/
def Memory.write (font : FontTable) : Memory → Nat → Byte → Memory
  | [], a, b => if b = Memory.unlisted font a then [] else [(a, b)]
  | (k, c) :: rest, a, b =>
    if k < a then (k, c) :: Memory.write font rest a b
    else
      let above := if k = a then rest else (k, c) :: rest
      if b = Memory.unlisted font a then above else (a, b) :: above

/-- The canonical form from address `low` on: rising addresses inside 0x000..0xFFF, no byte that its address reads as
unlisted. -/
def Memory.wfFrom (font : FontTable) : Nat → Memory → Bool
  | _, [] => true
  | low, (k, b) :: rest =>
    decide (low ≤ k) && decide (k < 4096) && b != Memory.unlisted font k && Memory.wfFrom font (k + 1) rest

/-- The canonical form: equal memories are equal lists (log entry 33). -/
def Memory.wf (font : FontTable) (m : Memory) : Bool := Memory.wfFrom font 0 m

/-- Single-byte writes at `a`, `a + 1`, ... in this order (R53). -/
def Memory.writeSpan (font : FontTable) : Memory → Nat → List Byte → Memory
  | m, _, [] => m
  | m, a, b :: rest => Memory.writeSpan font (Memory.write font m a b) (a + 1) rest

/-- `MemRead(a, 1)` on the state. -/
def State.readByte (s : State) (a : Nat) : Byte := Memory.read s.cfg.fontTable s.mem a

/-- The bytes at `a` .. `a + n - 1`, lowest address first (R53). -/
def State.readBytes (s : State) (a n : Nat) : List Byte := (List.range n).map fun k => s.readByte (a + k)

/-- `MemRead(a, 2)`, the high byte at the lower address (R14, R51). -/
def State.readWord (s : State) (a : Nat) : Word := wordOfBytes (s.readByte a) (s.readByte (a + 1))

/-- Single-byte writes of the bytes from `a` upward. -/
def State.writeBytes (s : State) (a : Nat) (bytes : List Byte) : State :=
  { s with mem := Memory.writeSpan s.cfg.fontTable s.mem a bytes }

/-! ## Registers, pc and call stack -/

/-- `V[x] <- b` (R21, R23). -/
def State.setV (s : State) (x : Reg) (b : Byte) : State := { s with v := s.v.set x b }

/-- `I <- a` (R28). -/
def State.setIndex (s : State) (a : Word) : State := { s with index := a }

/-- `pc <- a` (R24). -/
def State.setPc (s : State) (a : Word) : State := { s with pc := a }

/-- `DT <- b` (R31). -/
def State.setDt (s : State) (b : Byte) : State := { s with dt := b }

/-- `ST <- b` (R32). -/
def State.setSt (s : State) (b : Byte) : State := { s with st := b }

/-- The display with its dirty signal raised (R35). -/
def State.setDisp (s : State) (d : Display) : State := { s with disp := d, dirty := true }

/-- In a body: the address of the instruction itself, `a = pc - 2` (R17, R25). -/
def State.instrAddr (s : State) : Word := s.pc - 2

/-- The further `pc <- pc + 2` of a skip whose condition holds (R26, R149). -/
def State.skipIf (s : State) (condition : Bool) : State := if condition then s.setPc (s.pc + 2) else s

/-- Push a return address: none when all 16 slots are in use (R29, R30, R144). -/
def State.push (s : State) (a : Word) : Option State :=
  if h : s.sp.val < 16 then
    some { s with stack := s.stack.set s.sp.val a, sp := ⟨s.sp.val + 1, by omega⟩ }
  else none

/-- Pop a return address: none when no slot is in use; the slot keeps its value (R29, R30, R141). -/
def State.pop (s : State) : Option (Word × State) :=
  if h : s.sp.val = 0 then none
  else some (s.stack[s.sp.val - 1], { s with sp := ⟨s.sp.val - 1, by omega⟩ })

/-- The byte `draw RNG` gives, a free value (R189; log entry 8). -/
def State.nextRandom (s : State) : Byte := Config.randomByte s.draws

/-- One byte was taken from RNG (R189). -/
def State.countDraw (s : State) : State := { s with draws := s.draws + 1 }

/-! ## Taking a fatal error, and the only way out of it -/

/-- `raise Fatal(kind, info)`: HALT is set and nothing else changes; no vector, no saved context (R15, R266). -/
def takeFatal (s : State) (e : FatalError) : State := { s with halt := some e }

/-- A body that raises: the error is taken and the cycle ends there (R15). -/
def raise (kind : FatalKind) (info : Nat) (s : State) : Host.Outcome State Fault Refusal :=
  .next (takeFatal s ⟨kind, info⟩)

/-- A check, then the body: the error is taken if the check fails, before the body's first write (R59, R266). -/
def checked (check : Option FatalError) (s : State) (body : State) : Host.Outcome State Fault Refusal :=
  match check with
  | some e => .next (takeFatal s e)
  | none => .next body

/-- `Reset`: every component of the core at its value of R40; it is the only way to clear HALT (R267, R300). The machine's
parameters, the random source's position and the host's schedule are not the core's and stay (log entry 32). -/
def restart (s : State) : State :=
  { State.reset with cfg := s.cfg, draws := s.draws, calls := s.calls, hostTurn := s.hostTurn }

/-! ## Range checks -/

/-- `CheckRead(a, n)` (R57): the error carries the lowest address of the span outside memory. -/
def checkRead (a n : Nat) : Option FatalError :=
  if n = 0 then none
  else if a + n - 1 > 0xFFF then some ⟨.memoryOutOfRange, max a 0x1000⟩
  else none

/-- `CheckWrite(a, n)` (R58): first the range, then the font. -/
def checkWrite (policy : FontWritePolicy) (a n : Nat) : Option FatalError :=
  match checkRead a n with
  | some e => some e
  | none => if policy = .fault ∧ a ≤ 0x04F then some ⟨.readOnlyWrite, a⟩ else none

/-! ## Error codes -/

/-- The numeric code of a fatal kind (R260, decision D21; log entry 34). -/
def FatalKind.code : FatalKind → Nat
  | .stackOverflow => 2
  | .stackUnderflow => 3
  | .memoryOutOfRange => 4
  | .readOnlyWrite => 5
  | .keyIndexOutOfRange => 6

/-- The numeric code of a reply; a call that gives no result has none (R260). -/
def Reply.code : Reply → Option Nat
  | .nothing => none
  | .ok => some 0
  | .unknown _ => some 1
  | .fatal e => some e.kind.code
  | .loadOverflow _ => some 7
  | .display _ _ => none

end Sys2Proof.Machine
end

