-- ==== Sys2Proof/Machine/Operands.lean ====
section
/-! DEFINITION. The operand forms of the instructions (spec/30_encoding.md rule R88): registers, zero-extended
immediates, key indices, glyph addresses, decimal digits. -/

namespace Sys2Proof.Machine

/-- The operand `V[x]` (R83, R84). -/
def State.reg (s : State) (x : Reg) : Byte := s.v[x]

/-- `zext_16(nnn)`: the immediate address written to `pc` or `I` (R88). -/
def zextAddr (nnn : Addr12) : Word := nnn.setWidth 16

/-- The target of BNNN, `(nnn + V[0]) mod 2^16`, not reduced to 12 bits (R26, R160). -/
def offsetTarget (nnn : Addr12) (v0 : Byte) : Word := zextAddr nnn + v0.setWidth 16

/-- KEY[k], true meaning pressed (R33). -/
def State.keyDown (s : State) (k : Fin 16) : Bool := s.key[k]

/-- The key a register's value names; none above 15 (R88, R221). -/
def keyIndex (b : Byte) : Option (Fin 16) := if h : b.toNat < 16 then some ⟨b.toNat, h⟩ else none

/-- `min { k | KEY[k] = true }`, if any key is pressed (R246). -/
def State.lowestKey (s : State) : Option (Fin 16) := (List.finRange 16).find? s.keyDown

/-- The address of the glyph of a value's low nibble, `5 * (b & 0xF)` (R56, R238). -/
def glyphAddress (b : Byte) : Word := 5 * (b &&& 0x0F).setWidth 16

/-- The decimal digits of a value: hundreds, tens, ones (R240). -/
def bcdDigits (b : Byte) : List Byte :=
  [BitVec.ofNat 8 (b.toNat / 100), BitVec.ofNat 8 (b.toNat / 10 % 10), BitVec.ofNat 8 (b.toNat % 10)]

/-- `V[0], ..., V[x]` (R242). -/
def State.regsUpTo (s : State) (x : Reg) : List Byte := s.v.toList.take (x.val + 1)

/-- `V[k] <- MEM[I + k]` for k in 0..x, every other register kept (R244). -/
def State.loadRegs (s : State) (x : Reg) : State :=
  { s with v := Vector.ofFn fun k => if k ≤ x then s.readByte (s.index.toNat + k.val) else s.v[k] }

end Sys2Proof.Machine
end

