-- ==== Sys2Proof/Machine/Flags.lean ====
section
/-! DEFINITION. The flag computations (spec/10_state.md rule R27, spec/42_arithmetic.md): VF is the only flag, and it is
written after the result (R22, R171). -/

namespace Sys2Proof.Machine

/-- A flag as VF holds it: 1 or 0 (R27). -/
def flagByte (f : Bool) : Byte := if f then 1 else 0

/-- The carry of 8XY4: `a + b > 255` on naturals (R180). -/
def carry (a b : Byte) : Bool := a.toNat + b.toNat > 255

/-- No borrow in `a - b`: `a >= b` unsigned (R181, R183). -/
def noBorrow (a b : Byte) : Bool := a.toNat ≥ b.toNat

/-- The bit 8XY6 shifts out: bit 0 (R182). -/
def shiftedOutRight (a : Byte) : Bool := a.getLsbD 0

/-- The bit 8XYE shifts out: bit 7 (R184). -/
def shiftedOutLeft (a : Byte) : Bool := a.getLsbD 7

/-- `V[15] <- flag`. -/
def State.setFlag (s : State) (f : Bool) : State := s.setV vf (flagByte f)

/-- The result to `V[x]`, and then the flag to `V[15]` (R171). -/
def State.setResultAndFlag (s : State) (x : Reg) (result : Byte) (f : Bool) : State := (s.setV x result).setFlag f

end Sys2Proof.Machine
end

