-- ==== Sys2Proof/Machine/Arithmetic.lean ====
section
/-! DEFINITION. Register and arithmetic instructions (spec/42_arithmetic.md). All arithmetic is unsigned, 8 bits, and
wraps (R170). -/

namespace Sys2Proof.Machine

/-- 6XNN (R172). -/
def execLdVxNn (x : Reg) (nn : Byte) (s : State) : Host.Outcome State Fault Refusal := .next (s.setV x nn)

/-- 7XNN (R173): no flag. -/
def execAddVxNn (x : Reg) (nn : Byte) (s : State) : Host.Outcome State Fault Refusal :=
  .next (s.setV x (s.reg x + nn))

/-- 8XY0 (R174). -/
def execLdVxVy (x y : Reg) (s : State) : Host.Outcome State Fault Refusal := .next (s.setV x (s.reg y))

/-- 8XY1 (R175): VF is not reset. -/
def execOrVxVy (x y : Reg) (s : State) : Host.Outcome State Fault Refusal :=
  .next (s.setV x (s.reg x ||| s.reg y))

/-- 8XY2 (R176). -/
def execAndVxVy (x y : Reg) (s : State) : Host.Outcome State Fault Refusal :=
  .next (s.setV x (s.reg x &&& s.reg y))

/-- 8XY3 (R177). -/
def execXorVxVy (x y : Reg) (s : State) : Host.Outcome State Fault Refusal :=
  .next (s.setV x (s.reg x ^^^ s.reg y))

/-- 8XY4 (R180): VF = carry. -/
def execAddVxVy (x y : Reg) (s : State) : Host.Outcome State Fault Refusal :=
  .next (s.setResultAndFlag x (s.reg x + s.reg y) (carry (s.reg x) (s.reg y)))

/-- 8XY5 (R181): VF = 1 when V[x] >= V[y]. -/
def execSubVxVy (x y : Reg) (s : State) : Host.Outcome State Fault Refusal :=
  .next (s.setResultAndFlag x (s.reg x - s.reg y) (noBorrow (s.reg x) (s.reg y)))

/-- 8XY6 (R182): V[y] is not read. -/
def execShrVxVy (x _y : Reg) (s : State) : Host.Outcome State Fault Refusal :=
  .next (s.setResultAndFlag x (s.reg x >>> 1) (shiftedOutRight (s.reg x)))

/-- 8XY7 (R183): VF = 1 when V[y] >= V[x]. -/
def execSubnVxVy (x y : Reg) (s : State) : Host.Outcome State Fault Refusal :=
  .next (s.setResultAndFlag x (s.reg y - s.reg x) (noBorrow (s.reg y) (s.reg x)))

/-- 8XYE (R184): V[y] is not read. -/
def execShlVxVy (x _y : Reg) (s : State) : Host.Outcome State Fault Refusal :=
  .next (s.setResultAndFlag x (s.reg x <<< 1) (shiftedOutLeft (s.reg x)))

/-- CXNN (R190): one draw, masked; the draw is taken for every mask. -/
def execRndVxNn (x : Reg) (nn : Byte) (s : State) : Host.Outcome State Fault Refusal :=
  .next (s.countDraw.setV x (s.nextRandom &&& nn))

end Sys2Proof.Machine
end

