-- ==== Sys2Proof/Machine/Compositor.lean ====
section
/-! DEFINITION. The display compositor (spec/43_display.md rules R200 to R202): sprite rows drawn by XOR, every pixel
wrapping by itself, with the collision flag. -/

namespace Sys2Proof.Machine

/-- DISP[c][r] (R34; log entry 35). -/
def Display.cell (d : Display) (c : Fin 64) (r : Fin 32) : Bool := d[r][c]

/-- `DISP[c][r] <- DISP[c][r] ^ 1` (R200). -/
def Display.flip (d : Display) (c : Fin 64) (r : Fin 32) : Display := d.set r (d[r].set c (!d[r][c]))

/-- Every cell off (R140). -/
def Display.blank : Display := Vector.replicate 32 (Vector.replicate 64 false)

/-- A display and whether a cell was turned off so far in the draw. -/
structure Canvas where
  cells     : Display
  collision : Bool
  deriving DecidableEq, Repr

/-- One sprite bit at `col` of a row byte `b`: nothing if the bit is clear; else its cell is flipped, and turning it off
is a collision (R200, R201). `cx`, `cy` are the coordinates of the row's leftmost pixel. -/
def drawPixel (cx cy : Nat) (b : Byte) (col : Nat) (p : Canvas) : Canvas :=
  if b.getLsbD (7 - col) then
    let c := Fin.ofNat 64 (cx + col)
    let r := Fin.ofNat 32 cy
    ⟨Display.flip p.cells c r, p.collision || Display.cell p.cells c r⟩
  else p

/-- One sprite row: columns 0 to 7, the most significant bit leftmost (R200). -/
def drawRow (cx cy : Nat) (b : Byte) (p : Canvas) : Canvas :=
  (List.range 8).foldl (fun q col => drawPixel cx cy b col q) p

/-- The sprite's rows, top row first, each one row further down (R200). -/
def drawRows (cx : Nat) : Nat → List Byte → Canvas → Canvas
  | _, [], p => p
  | cy, b :: rest, p => drawRows cx (cy + 1) rest (drawRow cx cy b p)

end Sys2Proof.Machine
end

