-- ==== Sys2Proof/Machine/ControlFlow.lean ====
section
/-! DEFINITION. Control flow and comparison (spec/41_control_flow.md). In every body `pc` already holds the
instruction's address plus 2 (R113). -/

namespace Sys2Proof.Machine

/-- 00E0 (R140): every cell off, the dirty signal raised on every execution. -/
def execCls (s : State) : Host.Outcome State Fault Refusal := .next (s.setDisp Display.blank)

/-- 00EE (R141): pop the return address into `pc`. -/
def execRet (s : State) : Host.Outcome State Fault Refusal :=
  match s.pop with
  | none => raise .stackUnderflow s.instrAddr.toNat s
  | some (a, t) => .next (t.setPc a)

/-- 1NNN (R142). -/
def execJpNnn (nnn : Addr12) (s : State) : Host.Outcome State Fault Refusal := .next (s.setPc (zextAddr nnn))

/-- 2NNN (R144): push the post-increment `pc`, then jump. -/
def execCallNnn (nnn : Addr12) (s : State) : Host.Outcome State Fault Refusal :=
  match s.push s.pc with
  | none => raise .stackOverflow s.instrAddr.toNat s
  | some t => .next (t.setPc (zextAddr nnn))

/-- 3XNN (R145). -/
def execSeVxNn (x : Reg) (nn : Byte) (s : State) : Host.Outcome State Fault Refusal :=
  .next (s.skipIf (s.reg x == nn))

/-- 4XNN (R146). -/
def execSneVxNn (x : Reg) (nn : Byte) (s : State) : Host.Outcome State Fault Refusal :=
  .next (s.skipIf (s.reg x != nn))

/-- 5XY0 (R147). -/
def execSeVxVy (x y : Reg) (s : State) : Host.Outcome State Fault Refusal :=
  .next (s.skipIf (s.reg x == s.reg y))

/-- 9XY0 (R148). -/
def execSneVxVy (x y : Reg) (s : State) : Host.Outcome State Fault Refusal :=
  .next (s.skipIf (s.reg x != s.reg y))

/-- BNNN (R160). -/
def execJpV0Nnn (nnn : Addr12) (s : State) : Host.Outcome State Fault Refusal :=
  .next (s.setPc (offsetTarget nnn (s.reg 0)))

end Sys2Proof.Machine
end

