-- ==== Sys2Proof/Machine/IoTimerMemory.lean ====
section
/-! DEFINITION. Index register, keys, timers and block memory (spec/44_io_timer_memory.md). In every body `pc` already
holds the instruction's address plus 2 (R113). -/

namespace Sys2Proof.Machine

/-- ANNN (R220). -/
def execLdINnn (nnn : Addr12) (s : State) : Host.Outcome State Fault Refusal := .next (s.setIndex (zextAddr nnn))

/-- A key skip: the key index is checked before any key is read (R221, R222, R224). -/
def skipOnKey (pressed : Bool) (x : Reg) (s : State) : Host.Outcome State Fault Refusal :=
  match keyIndex (s.reg x) with
  | none => raise .keyIndexOutOfRange (s.reg x).toNat s
  | some k => .next (s.skipIf (s.keyDown k == pressed))

/-- EX9E (R222): skip if the key is pressed. -/
def execSkpVx (x : Reg) (s : State) : Host.Outcome State Fault Refusal := skipOnKey true x s

/-- EXA1 (R224): skip if the key is not pressed. -/
def execSknpVx (x : Reg) (s : State) : Host.Outcome State Fault Refusal := skipOnKey false x s

/-- FX07 (R230). -/
def execLdVxDt (x : Reg) (s : State) : Host.Outcome State Fault Refusal := .next (s.setV x s.dt)

/-- FX0A (R246): the lowest pressed key, or `pc` back to the instruction itself (R26). -/
def execLdVxK (x : Reg) (s : State) : Host.Outcome State Fault Refusal :=
  match s.lowestKey with
  | some k => .next (s.setV x (BitVec.ofNat 8 k.val))
  | none => .next (s.setPc (s.pc - 2))

/-- FX15 (R232). -/
def execLdDtVx (x : Reg) (s : State) : Host.Outcome State Fault Refusal := .next (s.setDt (s.reg x))

/-- FX18 (R234). -/
def execLdStVx (x : Reg) (s : State) : Host.Outcome State Fault Refusal := .next (s.setSt (s.reg x))

/-- FX1E (R236), under each INDEX_ADD_POLICY; no flag. -/
def execAddIVx (x : Reg) (s : State) : Host.Outcome State Fault Refusal :=
  let sum := s.index.toNat + (s.reg x).toNat
  match s.cfg.indexAdd with
  | .fault =>
    if sum > 0xFFF then raise .memoryOutOfRange sum s else .next (s.setIndex (BitVec.ofNat 16 sum))
  | .wrap12 => .next (s.setIndex (BitVec.ofNat 16 (sum % 2 ^ 12)))
  | .wrap16 => .next (s.setIndex (BitVec.ofNat 16 (sum % 2 ^ 16)))

/-- FX29 (R238). -/
def execLdFVx (x : Reg) (s : State) : Host.Outcome State Fault Refusal := .next (s.setIndex (glyphAddress (s.reg x)))

/-- A store of bytes at I, checked as a whole before its first write (R58, R59). -/
def storeAtIndex (bytes : List Byte) (s : State) : Host.Outcome State Fault Refusal :=
  checked (checkWrite s.cfg.fontWrite s.index.toNat bytes.length) s (s.writeBytes s.index.toNat bytes)

/-- FX33 (R240): I is unchanged. -/
def execLdBVx (x : Reg) (s : State) : Host.Outcome State Fault Refusal := storeAtIndex (bcdDigits (s.reg x)) s

/-- FX55 (R242): I is unchanged. -/
def execLdMemIVx (x : Reg) (s : State) : Host.Outcome State Fault Refusal := storeAtIndex (s.regsUpTo x) s

/-- FX65 (R244): I is unchanged; the font may be read (R54). -/
def execLdVxMemI (x : Reg) (s : State) : Host.Outcome State Fault Refusal :=
  checked (checkRead s.index.toNat (x.val + 1)) s (s.loadRegs x)

end Sys2Proof.Machine
end

