-- ==== Sys2Proof/Machine/Sprite.lean ====
section
/-! DEFINITION. The sprite draw (spec/43_display.md rule R200). -/

namespace Sys2Proof.Machine

/-- DXYN (R200): the check precedes every write; the coordinates are read before VF is written (R204); `n = 0` checks
and draws nothing and still writes VF and the dirty signal (R203, R205). -/
def execDrwVxVyN (x y : Reg) (n : Nibble) (s : State) : Host.Outcome State Fault Refusal :=
  let p := drawRows (s.reg x).toNat (s.reg y).toNat (s.readBytes s.index.toNat n.toNat) ⟨s.disp, false⟩
  checked (checkRead s.index.toNat n.toNat) s ((s.setDisp p.cells).setFlag p.collision)

end Sys2Proof.Machine
end

