-- ==== Sys2Proof/Machine/Cycle.lean ====
section
/-! DEFINITION. The fetch-decode-execute cycle (spec/40_cycle.md rule R120). -/

namespace Sys2Proof.Machine

/-- The fetch advance `pc <- (a + 2) mod 2^16` (R113), which makes the session a running one (R304). -/
def advance (s : State) : State := { s with pc := s.pc + 2, phase := .running }

/-- The result of a cycle whose body has ended: `Ok`, or the fatal error it raised (R115, R266). -/
def concludeCycle (s : State) : State :=
  { s with reply := match s.halt with | none => .ok | some e => .fatal e }

/-- `report Unknown(op, addr)`: the word and the address it was fetched from; HALT is not set (R118). -/
def reportUnknown (op addr : Word) (s : State) : State :=
  { s with reply := .unknown ⟨op, addr⟩, unknowns := ⟨op, addr⟩ :: s.unknowns }

/-- The host's policy HALT_ON_UNKNOWN = true after the first `Unknown` of the session (R263; log entry 7). -/
def hostHasStopped (s : State) : Bool := s.cfg.haltOnUnknown && !s.unknowns.isEmpty

/-- The body of a decoded instruction, and the cycle's result (R115). -/
def runBody (i : Instr) (s : State) : Host.Outcome State Fault Refusal :=
  match exec i s with
  | .next t => .next (concludeCycle t)
  | .fault r => .fault r
  | .refused r => .refused r

/-- `Cycle` (R120): nothing on a halted core but the same error again (R111); else the fetch, which may fail with `pc`
kept (R112), the advance (R113), and the body (R115) or the unknown-instruction report (R118). -/
def cycle (s : State) : Host.Outcome State Fault Refusal :=
  if hostHasStopped s then .fault .hostStopsCycling
  else
    match s.halt with
    | some e => .next { s with reply := .fatal e }
    | none =>
      match checkRead s.pc.toNat 2 with
      | some e => .next (concludeCycle (takeFatal { s with phase := .running } e))
      | none =>
        match decodeWord (s.readWord s.pc.toNat) with
        | some i => runBody i (advance s)
        | none => .next (reportUnknown (s.readWord s.pc.toNat) s.pc (advance s))

end Sys2Proof.Machine
end

