-- ==== Sys2Proof/Machine/HostCalls.lean ====
section
/-! DEFINITION. The entry points besides the cycle (spec/40_cycle.md rule R110; spec/60_exceptions.md rules R276 to R284;
spec/70_reset_and_hazards.md rules R300 to R304). -/

namespace Sys2Proof.Machine

/-- `if T > 0: T <- T - 1` (R276). -/
def countDown (b : Byte) : Byte := if b = 0 then 0 else b - 1

/-- `Tick`: both timers count down, saturating at 0; nothing on a halted core (R267, R276). -/
def tick (s : State) : State :=
  match s.halt with
  | none => { s with dt := countDown s.dt, st := countDown s.st, reply := .nothing }
  | some _ => { s with reply := .nothing }

/-- `SetKey(k, b)` (R280); it works on a halted core too (R267). -/
def setKey (k : Fin 16) (pressed : Bool) (s : State) : State :=
  { s with key := s.key.set k pressed, reply := .nothing }

/-- `ReadDisplay`: the snapshot, nothing changed (R282). -/
def readDisplay (s : State) : State := { s with reply := .display s.disp s.dirty }

/-- `AckDisplay` (R283). -/
def ackDisplay (s : State) : State := { s with dirty := false, reply := .nothing }

/-- `Load(bytes)` (R303): the image at 0x200, or `LoadOverflow` and nothing written. Only before a first taken load and
before the first cycle is it a transaction of the core (R304; log entry 29); a rejected load leaves the phase, so a
shorter one may follow, and a cycle made instead ends that (log entry 30). -/
def load (bytes : List Byte) (s : State) : Host.Outcome State Fault Refusal :=
  if s.phase = .beforeLoad then
    if wfImage bytes then .next { s.writeBytes 0x200 bytes with phase := .loaded, reply := .ok }
    else .next { s with reply := .loadOverflow bytes.length }
  else .refused .loadOutsideBoot

/-- The core answers one call (R110). -/
def answer (c : Call) (s : State) : Host.Outcome State Fault Refusal :=
  match c with
  | .reset => .next (restart s)
  | .load bytes => load bytes s
  | .cycle => cycle s
  | .tick => .next (tick s)
  | .setKey k pressed => .next (setKey k pressed s)
  | .readDisplay => .next (readDisplay s)
  | .ackDisplay => .next (ackDisplay s)

/-- The call the core answers next: the oldest that waits, or, with none waiting, the host's free choice (R277, R284; log
entries 27, 38). -/
def nextCall (s : State) : Call :=
  match s.calls with
  | [] => Config.hostCall s.hostTurn
  | c :: _ => c

/-- The call the core answers next is taken: off the list, or out of the host's free choices. -/
def State.takeCall (s : State) : State :=
  match s.calls with
  | [] => { s with hostTurn := s.hostTurn + 1 }
  | _ :: rest => { s with calls := rest }

/-- One transition of the system: the next call is taken and answered (R110, R116, R284). DESIGN CHOICE (log entry 30): a
Cycle is answered also before any Load and right after a rejected one, where R304 names only a shorter Load or a Reset;
from then on a Load is refused. -/
def nextTransition (s : State) : Host.Outcome State Fault Refusal := answer (nextCall s) s.takeCall

/-- Where a word is placed to be the next one fetched: `pc`, or the entry point when `pc` cannot be fetched from (R112,
R301). -/
def fetchAddress (s : State) : Word := if s.pc.toNat ≤ 0xFFE then s.pc else 0x0200

/-- The word placed from outside so that the very next step fetches and runs it: its bytes at the fetch address, a Cycle
as the next call, and nothing that keeps the cycle from fetching there (log entry 31). -/
def placeWord (op : Word) (s : State) : State :=
  { s.writeBytes (fetchAddress s).toNat (bytesOfWord op) with
    pc := fetchAddress s, halt := none, calls := .cycle :: s.calls, unknowns := [] }

end Sys2Proof.Machine
end

