-- ==== Sys2Proof/Machine/Step.lean ====
section
/-! DEFINITION. One step: one entry-point call is one atomic transition (spec/40_cycle.md rules R110, R116). -/

namespace Sys2Proof.Machine

/-- One transition of the system (`nextTransition`). -/
def step (s : State) : Host.Outcome State Fault Refusal := nextTransition s

/-- The instruction of an opcode-table word stored where `step` fetches its next instruction (`placeWord`). -/
def State.withFetchWord (s : State) (nbits w : Nat) : State := placeWord (wordOfTable nbits w) s

end Sys2Proof.Machine
end

