-- ==== Sys2Proof/Safety.lean ====
section
/-! DEFINITION. What statements about the core are made of: what a step leaves unchanged, the conditions under which an
instruction runs without an error, what a sprite covers, the reset table, and the machine's invariant. -/

namespace Sys2Proof.Machine

/-! ## Frames -/

/-- The components of the core (R20), and the count of draws from RNG (R189). -/
inductive Component
  | mem
  | v
  | index
  | pc
  | stack
  | sp
  | dt
  | st
  | key
  | disp
  | dirty
  | halt
  | draws
  deriving DecidableEq, Repr

/-- The component is the same before and after; for memory, every byte reads the same. -/
def Component.Same (s t : State) : Component → Prop
  | .mem => ∀ a, t.readByte a = s.readByte a
  | .v => t.v = s.v
  | .index => t.index = s.index
  | .pc => t.pc = s.pc
  | .stack => t.stack = s.stack
  | .sp => t.sp = s.sp
  | .dt => t.dt = s.dt
  | .st => t.st = s.st
  | .key => t.key = s.key
  | .disp => t.disp = s.disp
  | .dirty => t.dirty = s.dirty
  | .halt => t.halt = s.halt
  | .draws => t.draws = s.draws

/-- Every component is unchanged but those named. -/
def CoreUnchangedExcept (changed : List Component) (s t : State) : Prop :=
  ∀ c, c ∉ changed → c.Same s t

/-- The parameters, the host's schedule and the record of the session are unchanged. -/
def HostSideUnchanged (s t : State) : Prop :=
  t.cfg = s.cfg ∧ t.calls = s.calls ∧ t.hostTurn = s.hostTurn ∧ t.reply = s.reply ∧ t.unknowns = s.unknowns ∧ t.phase = s.phase

/-- The frame of an instruction's body: nothing changes but the components named. -/
def Frame (changed : List Component) (s t : State) : Prop :=
  CoreUnchangedExcept changed s t ∧ HostSideUnchanged s t

/-- Every register is unchanged but those named. -/
def RegsUnchangedExcept (changed : List Reg) (s t : State) : Prop :=
  ∀ z : Reg, z ∉ changed → t.reg z = s.reg z

/-! ## When an instruction runs without an error -/

/-- A safe state: no fatal error has occurred (R36). -/
def Safe (s : State) : Prop := s.halt = none

/-- The span of `n` bytes at `a` lies inside 0x000..0xFFF; the empty span does everywhere (R57). -/
def InMemory (a n : Nat) : Prop := n = 0 ∨ a + n ≤ 0x1000

/-- A store of `n` bytes at I is permitted: inside memory, and not starting in the font where that is protected (R58). -/
def StorePermitted (s : State) (n : Nat) : Prop :=
  s.index.toNat + n ≤ 0x1000 ∧ (s.cfg.fontWrite = .fault → 0x050 ≤ s.index.toNat)

/-- The next step makes a cycle: the next call, waiting or freely chosen, is a Cycle (R110, R284; log entries 27, 38). -/
def MakesCycle (s : State) : Prop := nextCall s = .cycle

/-- The step has taken its own call and no other, and added none to the host's schedule. -/
def CallTaken (s t : State) : Prop := t.calls = s.takeCall.calls ∧ t.hostTurn = s.takeCall.hostTurn

/-- The core is about to run a cycle that fetches `op`: the next step makes a cycle, the host still makes cycles, no
error has occurred, and the two bytes at `pc` are inside memory and are `op`, high byte first (R51, R112). -/
def Fetches (s : State) (op : Word) : Prop :=
  MakesCycle s ∧ (s.cfg.haltOnUnknown = true → s.unknowns = []) ∧ s.halt = none ∧ s.pc.toNat ≤ 0xFFE ∧
    op.toNat = (s.readByte s.pc.toNat).toNat * 256 + (s.readByte (s.pc.toNat + 1)).toNat

/-- A fatal error was taken by a body, and nothing else changed (R266). -/
def HaltsWith (kind : FatalKind) (info : Nat) (s t : State) : Prop :=
  t.halt = some ⟨kind, info⟩ ∧ Frame [.halt] s t

/-! ## Sprites -/

/-- Cell (c, r) lies under a set bit of the sprite that DXYN draws: bit `7 - col` of the byte of row `row`, at the
coordinates `(V[x] + col) mod 64`, `(V[y] + row) mod 32` (R200, R202). -/
def SpriteCovers (s : State) (x y : Reg) (n : Nibble) (c : Fin 64) (r : Fin 32) : Prop :=
  ∃ row col : Nat, row < n.toNat ∧ col < 8 ∧
    (s.readByte (s.index.toNat + row)).getLsbD (7 - col) = true ∧
    c.val = ((s.reg x).toNat + col) % 64 ∧ r.val = ((s.reg y).toNat + row) % 32

/-! ## The reset table and the invariant -/

/-- The table of R40, for a core built with the font table of its parameters. -/
def ResetTable (s : State) : Prop :=
  (∀ (a : Nat) (h : a < 80), s.readByte a = s.cfg.fontTable[a]) ∧
  (∀ a : Nat, 80 ≤ a → s.readByte a = 0x00) ∧
  (∀ x : Reg, s.reg x = 0x00) ∧ s.index = 0x0000 ∧ s.pc = 0x0200 ∧
  (∀ k : Fin 16, s.stack[k] = 0x0000) ∧ s.sp = 0 ∧ s.dt = 0x00 ∧ s.st = 0x00 ∧
  (∀ k : Fin 16, s.keyDown k = false) ∧
  (∀ (c : Fin 64) (r : Fin 32), Display.cell s.disp c r = false) ∧ s.dirty = false ∧ s.halt = none

/-- What holds of the core in every session: memory keeps its canonical form; a protected font keeps its bytes (R55,
R58); I stays an address unless the policy is `wrap16` (R236); `pc` stays at most 0x10FE, so its 16-bit wrap is never
met (R26); every return address on the stack is at most 0x1000 (R144); a halted session has run a cycle (R304). -/
structure MachineInv (s : State) : Prop where
  memCanonical : Memory.wf s.cfg.fontTable s.mem = true
  fontIntact   : s.cfg.fontWrite = .fault → ∀ (a : Nat) (h : a < 80), s.readByte a = s.cfg.fontTable[a]
  indexInRange : s.cfg.indexAdd ≠ .wrap16 → s.index.toNat ≤ 0xFFF
  pcInRange    : s.pc.toNat ≤ 0x10FE
  stackInRange : ∀ k : Fin 16, s.stack[k].toNat ≤ 0x1000
  haltedHasRun : s.halt ≠ none → s.phase = .running

end Sys2Proof.Machine
end

