-- ==== Sys2Proof/Certificates/Slice0/Obligations.lean ====
section
/-! DEFINITION. The statements about the core, from the numbered rules of spec/. A statement whose docstring names a
decision D<n>, a passage the spec marks as derived or as general knowledge, or a log entry, rests on that choice and is
of basis 'derived'. The bodies (`exec`) run with `pc` already advanced, so `s.pc` is the instruction's address plus 2
(R17, R113). -/

open Sys2Proof Sys2Proof.Machine

/-! ## Encoding -/

/-- Decoding an encoded instruction gives it back, as a word and at the head of any bytes. The opcode map is the spec's
(R87, R90), 31 of its patterns from its general knowledge (D9, log entry 1). -/
def Obligations.DecodeInvertsEncode : Prop :=
  ∀ (i : Instr) (rest : List Byte),
    decodeWord (encode i) = some i ∧ decode (encodeBytes i ++ rest) = .ok (i, rest)

/-- A word that decodes is the encoding of what it decodes to: no bit of a known word is dropped (R87, R88; log 1). -/
def Obligations.DecodedWordIsItsEncoding : Prop :=
  ∀ (op : Word) (i : Instr), decodeWord op = some i → encode i = op

/-- R114: the fields are cut from the word as R82 to R86 say; the word is matched against the rows, and at most one row
matches. -/
def Obligations.WordSelectsItsOnlyRow : Prop :=
  ∀ op : Word,
    (famOf op).toNat = op.toNat / 4096 ∧ (xOf op).val = op.toNat / 256 % 16 ∧ (yOf op).val = op.toNat / 16 % 16 ∧
    (nOf op).toNat = op.toNat % 16 ∧ (nnOf op).toNat = op.toNat % 256 ∧ (nnnOf op).toNat = op.toNat % 4096 ∧
    (∀ i, decodeWord op = some i ↔ ∃ r ∈ opcodeTable, op &&& r.mask = r.pattern ∧ r.read op = i) ∧
    (∀ r₁ ∈ opcodeTable, ∀ r₂ ∈ opcodeTable,
      op &&& r₁.mask = r₁.pattern → op &&& r₂.mask = r₂.pattern → r₁.mnemonic = r₂.mnemonic)

/-- R92: the unknown words are exactly those listed. The strict decode is the spec's decision D11 (log entry 3). -/
def Obligations.UnknownWordsAreExactlyTheListed : Prop :=
  ∀ op : Word, decodeWord op = none ↔
    (op.toNat < 0x1000 ∧ op ≠ 0x00E0 ∧ op ≠ 0x00EE) ∨
    (op.toNat / 4096 = 5 ∧ op.toNat % 16 ≠ 0) ∨
    (op.toNat / 4096 = 8 ∧ op.toNat % 16 ∈ [0x8, 0x9, 0xA, 0xB, 0xC, 0xD, 0xF]) ∨
    (op.toNat / 4096 = 9 ∧ op.toNat % 16 ≠ 0) ∨
    (op.toNat / 4096 = 0xE ∧ op.toNat % 256 ∉ [0x9E, 0xA1]) ∨
    (op.toNat / 4096 = 0xF ∧
      op.toNat % 256 ∉ [0x07, 0x0A, 0x15, 0x18, 0x1E, 0x29, 0x33, 0x55, 0x65])

/-- R89: the three patterns the source gives: 1NNN, 6XNN and 8XY4. -/
def Obligations.SourcePatternsDecode : Prop :=
  ∀ op : Word,
    (op &&& 0xF000 = 0x1000 → decodeWord op = some (.jpNnn (nnnOf op))) ∧
    (op &&& 0xF000 = 0x6000 → decodeWord op = some (.ldVxNn (xOf op) (nnOf op))) ∧
    (op &&& 0xF00F = 0x8004 → decodeWord op = some (.addVxVy (xOf op) (yOf op)))

/-- One word of each family, written out from the formats of R87, and the instruction it stands for (log entry 1). -/
def Obligations.WrittenOutWordsDecode : Prop :=
  decodeWord 0b0000000011100000#16 = some .cls ∧
  decodeWord 0b0010001100000000#16 = some (.callNnn 0x300) ∧
  decodeWord 0b0110000100000011#16 = some (.ldVxNn 1 3) ∧
  decodeWord 0b1000000000010100#16 = some (.addVxVy 0 1) ∧
  decodeWord 0b1101001010100101#16 = some (.drwVxVyN 2 10 5) ∧
  decodeWord 0b1110010110011110#16 = some (.skpVx 5) ∧
  decodeWord 0b1111010001100101#16 = some (.ldVxMemI 4)

/-! ## The cycle -/

/-- R110, R116: a step that makes a cycle, because the next call, waiting or the host's free choice, is a Cycle, is `cycle`
on the state without that call, so what is stated of `cycle` holds of such a step. How the next call is held and chosen
is the model's choice (log entries 27, 38). -/
def Obligations.StepThatMakesACycleIsTheCycle : Prop :=
  ∀ s : State, MakesCycle s → step s = cycle s.takeCall

/-- R113, R115: after a successful fetch `pc` has advanced by 2 before the body runs, for every fetched word: a decoded
instruction's body runs on the advanced state and its end is the step's (its result `Ok`, or the error the body raised),
and an unknown word leaves the advanced `pc`. The fetched word is the two bytes at `pc`, high byte first (`Fetches`).
That the session is marked running (log entry 29), the host's schedule, from which the Cycle call is taken (log entries
27, 38), and the kept result (log entry 28) are the model's choice. -/
def Obligations.StepRunsTheDecodedInstruction : Prop :=
  ∀ (s : State) (op : Word), Fetches s op →
    (∀ i t, decodeWord op = some i →
      exec i { s.takeCall with pc := s.pc + 2, phase := .running } = .next t →
      (t.halt = none → step s = .next { t with reply := .ok }) ∧
      (∀ e, t.halt = some e → step s = .next { t with reply := .fatal e })) ∧
    (decodeWord op = none → ∃ t, step s = .next t ∧ t.pc = s.pc + 2)

/-- R118: an unknown word changes nothing beyond the advance, and the cycle returns it with its address. The content of
the report is the spec's decision D12; its record in the state and the host's schedule are the model's (log entries
27, 28, 38). -/
def Obligations.UnknownWordIsReportedAndSkipped : Prop :=
  ∀ (s : State) (op : Word), Fetches s op → decodeWord op = none →
    ∃ t, step s = .next t ∧ t.pc = s.pc + 2 ∧ CoreUnchangedExcept [.pc] s t ∧
      t.reply = .unknown ⟨op, s.pc⟩ ∧ t.unknowns = ⟨op, s.pc⟩ :: s.unknowns ∧ t.cfg = s.cfg ∧
      CallTaken s t

/-- R112: a fetch above 0xFFE is `MemoryOutOfRange`, with `pc` kept and no other change (decision D4, log entry 15), whether
the Cycle call waited or is the host's free choice (log entries 27, 38); the result is kept (log entry 28). -/
def Obligations.FetchOutsideMemoryIsFatal : Prop :=
  ∀ s : State, MakesCycle s → (s.cfg.haltOnUnknown = true → s.unknowns = []) → s.halt = none → 0xFFE < s.pc.toNat →
    ∃ t, step s = .next t ∧ CoreUnchangedExcept [.halt] s t ∧
      t.halt = some ⟨.memoryOutOfRange, max s.pc.toNat 0x1000⟩ ∧
      t.reply = .fatal ⟨.memoryOutOfRange, max s.pc.toNat 0x1000⟩ ∧ CallTaken s t

/-- R111: a cycle on a halted core changes no state and returns the same error (decision D22, log entry 11), whether
the Cycle call waited or is the host's free choice (log entries 27, 38); the result is kept (log entry 28). -/
def Obligations.HaltedCycleRepeatsItsError : Prop :=
  ∀ (s : State) (e : FatalError), MakesCycle s → (s.cfg.haltOnUnknown = true → s.unknowns = []) → s.halt = some e →
    ∃ t, step s = .next t ∧ CoreUnchangedExcept [] s t ∧ t.reply = .fatal e ∧ CallTaken s t

/-- R266: errors are precise, over every instruction: a cycle that halts the core has changed nothing but HALT and, after
a body error, the fetch advance of `pc` (decisions D8, D22; log entries 11, 12); the result is kept (log entry 28). -/
def Obligations.FatalErrorsArePrecise : Prop :=
  ∀ (s t : State) (e : FatalError), cycle s = .next t → s.halt = none → t.halt = some e →
    CoreUnchangedExcept [.halt, .pc] s t ∧ t.reply = .fatal e ∧
    (s.pc.toNat ≤ 0xFFE → t.pc = s.pc + 2) ∧ (0xFFE < s.pc.toNat → t.pc = s.pc)

/-- R117: a cycle never changes DT or ST except by FX15 and FX18, and never changes KEY. -/
def Obligations.CyclesChangeTimersOnlyBySettingThem : Prop :=
  ∀ s t : State, cycle s = .next t →
    t.key = s.key ∧
    (t.dt ≠ s.dt → ∃ x, decodeWord (s.readWord s.pc.toNat) = some (.ldDtVx x)) ∧
    (t.st ≠ s.st → ∃ x, decodeWord (s.readWord s.pc.toNat) = some (.ldStVx x))

/-- R28, R29, R34: among all instructions, I is written only by ANNN, FX1E and FX29; the stack and its depth only by 2NNN
and 00EE; the display only by 00E0 and DXYN. That the dirty signal too is written only by these two is the spec's
decision D19 of R35 (log entry 23); the patterns are log entry 1. -/
def Obligations.IndexStackAndDisplayHaveTheirOwnWriters : Prop :=
  ∀ s t : State, cycle s = .next t →
    (t.index ≠ s.index → ∃ i, decodeWord (s.readWord s.pc.toNat) = some i ∧
      ((∃ nnn, i = .ldINnn nnn) ∨ (∃ x, i = .addIVx x) ∨ (∃ x, i = .ldFVx x))) ∧
    ((t.stack ≠ s.stack ∨ t.sp ≠ s.sp) → ∃ i, decodeWord (s.readWord s.pc.toNat) = some i ∧
      ((∃ nnn, i = .callNnn nnn) ∨ i = .ret)) ∧
    ((t.disp ≠ s.disp ∨ t.dirty ≠ s.dirty) → ∃ i, decodeWord (s.readWord s.pc.toNat) = some i ∧
      (i = .cls ∨ ∃ x y n, i = .drwVxVyN x y n))

/-- R53: among all instructions, a byte of memory changes only by FX33, inside I .. I+2, or by FX55, inside I .. I+x. -/
def Obligations.MemoryChangesOnlyInsideTheStoredSpan : Prop :=
  ∀ (s t : State) (a : Nat), cycle s = .next t → t.readByte a ≠ s.readByte a →
    ∃ x : Reg,
      (decodeWord (s.readWord s.pc.toNat) = some (.ldBVx x) ∧ s.index.toNat ≤ a ∧ a ≤ s.index.toNat + 2) ∨
      (decodeWord (s.readWord s.pc.toNat) = some (.ldMemIVx x) ∧ s.index.toNat ≤ a ∧ a ≤ s.index.toNat + x.val)

/-- R27: VF changes only by the six instructions that set the flag, or as an ordinary destination register. -/
def Obligations.FlagRegisterHasItsOwnWriters : Prop :=
  ∀ (i : Instr) (s t : State), exec i s = .next t → t.reg vf ≠ s.reg vf →
    (∃ x y, i = .addVxVy x y) ∨ (∃ x y, i = .subVxVy x y) ∨ (∃ x y, i = .shrVxVy x y) ∨
    (∃ x y, i = .subnVxVy x y) ∨ (∃ x y, i = .shlVxVy x y) ∨ (∃ x y n, i = .drwVxVyN x y n) ∨
    (∃ nn, i = .ldVxNn vf nn) ∨ (∃ nn, i = .addVxNn vf nn) ∨ (∃ y, i = .ldVxVy vf y) ∨
    (∃ y, i = .orVxVy vf y) ∨ (∃ y, i = .andVxVy vf y) ∨ (∃ y, i = .xorVxVy vf y) ∨
    (∃ nn, i = .rndVxNn vf nn) ∨ i = .ldVxDt vf ∨ i = .ldVxK vf ∨ i = .ldVxMemI vf

/-- R189: each execution of CXNN takes exactly one byte from RNG, and no other instruction takes one (decision D20 for
the draw itself, log entry 8). -/
def Obligations.OnlyRandomTakesADraw : Prop :=
  ∀ (i : Instr) (s t : State), exec i s = .next t →
    ((∃ x nn, i = .rndVxNn x nn) → t.draws = s.draws + 1) ∧
    ((∀ x nn, i ≠ .rndVxNn x nn) → t.draws = s.draws)

/-- R270: every instruction can be executed at every time: each answers a next state in every state, with the parameters
and the host's side untouched (decision D24, log entry 37). -/
def Obligations.EveryInstructionAnswersInEveryState : Prop :=
  ∀ (i : Instr) (s : State), ∃ t, exec i s = .next t ∧ HostSideUnchanged s t ∧ (t.halt = s.halt ∨ t.halt.isSome = true)

/-- The only stops of the model: the host's policy HALT_ON_UNKNOWN after an `Unknown` (R263, decision D13, log entry 7),
and a Load outside the boot order (R304, decision D26, log entry 29). Every other step answers, and no step changes a
parameter. -/
def Obligations.StepStopsOnlyByTheHost : Prop :=
  ∀ s : State,
    (∀ r, step s = .fault r → s.cfg.haltOnUnknown = true ∧ s.unknowns ≠ []) ∧
    (∀ r, step s = .refused r → (∃ bytes, nextCall s = .load bytes) ∧ s.phase ≠ .beforeLoad) ∧
    (∀ t, step s = .next t → t.cfg = s.cfg)

/-! ## Invariants -/

/-- Every step keeps the machine's invariant: canonical memory (log entry 33), an intact protected font (R55, R58, D6), I
an address unless `wrap16` (R236, derived by the spec), `pc` at most 0x10FE (R26, derived by the spec), return addresses
at most 0x1000, and a halted session a running one (log entry 29). -/
def Obligations.StepKeepsMachineInvariant : Prop :=
  ∀ s t : State, MachineInv s → step s = .next t → MachineInv t

/-- The reset state meets the machine's invariant. -/
def Obligations.ResetMeetsMachineInvariant : Prop := MachineInv State.reset

/-- R267: once HALT is set only Reset clears it, and until then a step changes nothing of the core but KEY (SetKey) and
DIRTY (AckDisplay) (decision D22, log entry 11). The invariant rules out a halted core that has run no cycle, which no
run reaches and where a Load could still write memory. -/
def Obligations.OnlyResetLeavesTheHaltedState : Prop :=
  ∀ (s t : State) (e : FatalError), MachineInv s → s.halt = some e → nextCall s ≠ .reset → step s = .next t →
      t.halt = some e ∧ CoreUnchangedExcept [.key, .dirty] s t

/-! ## The host's calls

The next call is the oldest one waiting in the state (log entry 27) or, with none waiting, the host's free choice (log
entry 38), and its result is kept in the state (log entry 28): these are the model's choice. -/

/-- R116, R277, R284: a step answers one call and takes that call alone from the host's schedule, which no call and no
instruction changes otherwise, so the order of the host's calls is the host's. How the schedule is held is the model's
choice (log entries 27, 32, 38). -/
def Obligations.EveryStepTakesOneCallOfTheHost : Prop :=
  ∀ s t : State, step s = .next t → CallTaken s t

/-- R276: a tick takes 1 from each timer that is not 0 and changes nothing else; on a halted core it does nothing, which
is decision D22 of R267 (log entry 11). -/
def Obligations.TickCountsBothTimersDown : Prop :=
  ∀ s : State, nextCall s = .tick →
    ∃ t, step s = .next t ∧ CoreUnchangedExcept [.dt, .st] s t ∧
      (s.halt = none → t.dt.toNat = s.dt.toNat - 1 ∧ t.st.toNat = s.st.toNat - 1) ∧
      (s.halt ≠ none → t.dt = s.dt ∧ t.st = s.st)

/-- R280: SetKey sets the key and changes nothing else; it is the only writer of KEY within a session.
Reset, which starts a new session, releases every key (R300, decision D25; log entries 9, 32). -/
def Obligations.SetKeyIsTheOnlyWriterOfKeys : Prop :=
  (∀ (s : State) (k : Fin 16) (b : Bool), nextCall s = .setKey k b →
    ∃ t, step s = .next t ∧ CoreUnchangedExcept [.key] s t ∧ t.keyDown k = b ∧ ∀ j : Fin 16, j ≠ k → t.keyDown j = s.keyDown j) ∧
  (∀ s t : State, step s = .next t → t.key ≠ s.key →
    (∃ k b, nextCall s = .setKey k b) ∨ nextCall s = .reset)

/-- R282: ReadDisplay returns a copy of DISP and the value of DIRTY, and changes nothing. How the call is chosen
and its result kept is the model's choice (log entries 27, 28, 38). -/
def Obligations.ReadDisplayReturnsTheDisplay : Prop :=
  ∀ s : State, nextCall s = .readDisplay →
    ∃ t, step s = .next t ∧ CoreUnchangedExcept [] s t ∧ t.reply = .display s.disp s.dirty

/-- R283: AckDisplay clears DIRTY and changes nothing else (decision D19, log entry 23). -/
def Obligations.AckDisplayClearsDirty : Prop :=
  ∀ s : State, nextCall s = .ackDisplay →
    ∃ t, step s = .next t ∧ CoreUnchangedExcept [.dirty] s t ∧ t.dirty = false

/-- R303: a load of at most 3584 bytes puts them at 0x200 upward, returns ok and changes nothing else (the empty image
by decision D26); a longer one returns `LoadOverflow` and writes nothing. It is asked for before a load was taken and
before the first cycle, the only place R304 gives it. -/
def Obligations.LoadCopiesTheImageOrRejectsIt : Prop :=
  ∀ (s : State) (bytes : List Byte), Memory.wf s.cfg.fontTable s.mem = true →
    s.phase = .beforeLoad → nextCall s = .load bytes →
    (bytes.length ≤ 3584 → ∃ t, step s = .next t ∧ CoreUnchangedExcept [.mem] s t ∧ t.reply = .ok ∧
      (∀ (k : Nat) (h : k < bytes.length), t.readByte (0x200 + k) = bytes[k]) ∧
      (∀ a : Nat, (a < 0x200 ∨ 0x200 + bytes.length ≤ a) → t.readByte a = s.readByte a)) ∧
    (3584 < bytes.length → ∃ t, step s = .next t ∧ CoreUnchangedExcept [] s t ∧ t.reply = .loadOverflow bytes.length)

/-- R304: a Load after a taken Load or after the first cycle is no transaction of the core; the model refuses it by name
(decision D26, log entry 29). -/
def Obligations.LoadOutsideBootIsRefused : Prop :=
  ∀ (s : State) (bytes : List Byte), s.phase ≠ .beforeLoad → nextCall s = .load bytes →
    step s = .refused .loadOutsideBoot

/-- R40, R300: the reset state, and the state after a Reset call in any state, hold the values of the table. All but the
font's place is the spec's decision D25 or its derivation R301 (log entries 9, 10, 32). -/
def Obligations.ResetSetsEveryComponent : Prop :=
  ResetTable State.reset ∧
  ∀ s : State, nextCall s = .reset →
    ∃ t, step s = .next t ∧ ResetTable t ∧ t.cfg = s.cfg ∧ t.draws = s.draws ∧ CallTaken s t

/-- R263: under HALT_ON_UNKNOWN = true the host makes no cycle after the first `Unknown`; under false the next cycle runs
(decision D13, log entry 7), whether the Cycle call waited or is the host's free choice (log entries 27, 38). -/
def Obligations.HostPolicyDecidesAfterUnknown : Prop :=
  ∀ s : State, MakesCycle s → s.unknowns ≠ [] →
    (s.cfg.haltOnUnknown = true → step s = .fault .hostStopsCycling) ∧
    (s.cfg.haltOnUnknown = false → ∃ t, step s = .next t)

/-! ## Registers and arithmetic -/

/-- R172: 6XNN, encoding and effect. -/
def Obligations.LoadImmediateWritesTheByte : Prop :=
  (∀ op : Word, op &&& 0xF000 = 0x6000 → decodeWord op = some (.ldVxNn (xOf op) (nnOf op))) ∧
  ∀ (s : State) (x : Reg) (nn : Byte), ∃ t, exec (.ldVxNn x nn) s = .next t ∧
    t.reg x = nn ∧ RegsUnchangedExcept [x] s t ∧ Frame [.v] s t

/-- R23: for every register and byte, writing then reading yields the same value; it is read here by a register move
(8XY0, R174) into any register. -/
def Obligations.RegisterReadsBackWhatWasWritten : Prop :=
  ∀ (s : State) (x y : Reg) (b : Byte), ∃ t u,
    exec (.ldVxNn x b) s = .next t ∧ t.reg x = b ∧ exec (.ldVxVy y x) t = .next u ∧ u.reg y = b ∧ u.reg x = b

/-- R173 to R177, effects: add immediate (wrapping, no flag), move, OR, AND, XOR, the last three bit by bit; VF is
written only as an ordinary destination. Their encodings are the spec's general knowledge (log entry 1). -/
def Obligations.MovesAndLogicWriteOnlyTheDestination : Prop :=
  ∀ (s : State) (x y : Reg) (nn : Byte),
    (∃ t, exec (.addVxNn x nn) s = .next t ∧ (t.reg x).toNat = ((s.reg x).toNat + nn.toNat) % 256 ∧
      RegsUnchangedExcept [x] s t ∧ Frame [.v] s t) ∧
    (∃ t, exec (.ldVxVy x y) s = .next t ∧ t.reg x = s.reg y ∧ RegsUnchangedExcept [x] s t ∧ Frame [.v] s t) ∧
    (∃ t, exec (.orVxVy x y) s = .next t ∧
      (∀ j, (t.reg x).getLsbD j = ((s.reg x).getLsbD j || (s.reg y).getLsbD j)) ∧
      RegsUnchangedExcept [x] s t ∧ Frame [.v] s t) ∧
    (∃ t, exec (.andVxVy x y) s = .next t ∧
      (∀ j, (t.reg x).getLsbD j = ((s.reg x).getLsbD j && (s.reg y).getLsbD j)) ∧
      RegsUnchangedExcept [x] s t ∧ Frame [.v] s t) ∧
    (∃ t, exec (.xorVxVy x y) s = .next t ∧
      (∀ j, (t.reg x).getLsbD j = ((s.reg x).getLsbD j != (s.reg y).getLsbD j)) ∧
      RegsUnchangedExcept [x] s t ∧ Frame [.v] s t)

/-- R180: 8XY4, encoding and effect: the sum mod 256, and then the carry to VF, also when x is F. -/
def Obligations.AddRegistersSetsCarry : Prop :=
  (∀ op : Word, op &&& 0xF00F = 0x8004 → decodeWord op = some (.addVxVy (xOf op) (yOf op))) ∧
  ∀ (s : State) (x y : Reg), ∃ t, exec (.addVxVy x y) s = .next t ∧
    (x ≠ vf → (t.reg x).toNat = ((s.reg x).toNat + (s.reg y).toNat) % 256) ∧
    (t.reg vf).toNat = (if (s.reg x).toNat + (s.reg y).toNat > 255 then 1 else 0) ∧
    RegsUnchangedExcept [x, vf] s t ∧ Frame [.v] s t

/-- R171, for every instruction that writes a result and a flag: both are computed from the operands as they were, the
result is written to V[x], and then the flag to V[15], where it overwrites the result if x is F. The shifts read V[x]
alone. -/
def Obligations.FlagIsWrittenAfterTheResult : Prop :=
  ∀ (s : State) (x y : Reg),
    (∃ t, exec (.addVxVy x y) s = .next t ∧ (x ≠ vf → t.reg x = s.reg x + s.reg y) ∧
      (t.reg vf).toNat = (if (s.reg x).toNat + (s.reg y).toNat > 255 then 1 else 0) ∧
      RegsUnchangedExcept [x, vf] s t ∧ Frame [.v] s t) ∧
    (∃ t, exec (.subVxVy x y) s = .next t ∧ (x ≠ vf → (t.reg x).toNat = ((s.reg x).toNat + 256 - (s.reg y).toNat) % 256) ∧
      (t.reg vf).toNat = (if (s.reg x).toNat ≥ (s.reg y).toNat then 1 else 0) ∧
      RegsUnchangedExcept [x, vf] s t ∧ Frame [.v] s t) ∧
    (∃ t, exec (.subnVxVy x y) s = .next t ∧ (x ≠ vf → (t.reg x).toNat = ((s.reg y).toNat + 256 - (s.reg x).toNat) % 256) ∧
      (t.reg vf).toNat = (if (s.reg y).toNat ≥ (s.reg x).toNat then 1 else 0) ∧
      RegsUnchangedExcept [x, vf] s t ∧ Frame [.v] s t) ∧
    (∃ t, exec (.shrVxVy x y) s = .next t ∧ (x ≠ vf → (t.reg x).toNat = (s.reg x).toNat / 2) ∧
      (t.reg vf).toNat = (s.reg x).toNat % 2 ∧ RegsUnchangedExcept [x, vf] s t ∧ Frame [.v] s t) ∧
    (∃ t, exec (.shlVxVy x y) s = .next t ∧ (x ≠ vf → (t.reg x).toNat = (s.reg x).toNat * 2 % 256) ∧
      (t.reg vf).toNat = (s.reg x).toNat / 128 ∧ RegsUnchangedExcept [x, vf] s t ∧ Frame [.v] s t)

/-- R185: result and flag together are the exact result, for all operands (derived by the spec from R180 to R184). -/
def Obligations.ResultAndFlagAreTheExactResult : Prop :=
  ∀ (s t : State) (x y : Reg), x ≠ vf →
    (exec (.addVxVy x y) s = .next t → (t.reg x).toNat + 256 * (t.reg vf).toNat = (s.reg x).toNat + (s.reg y).toNat) ∧
    (exec (.subVxVy x y) s = .next t →
      (t.reg x).toNat + (s.reg y).toNat = (s.reg x).toNat + 256 * (1 - (t.reg vf).toNat)) ∧
    (exec (.subnVxVy x y) s = .next t →
      (t.reg x).toNat + (s.reg x).toNat = (s.reg y).toNat + 256 * (1 - (t.reg vf).toNat)) ∧
    (exec (.shrVxVy x y) s = .next t → 2 * (t.reg x).toNat + (t.reg vf).toNat = (s.reg x).toNat) ∧
    (exec (.shlVxVy x y) s = .next t → (t.reg x).toNat + 256 * (t.reg vf).toNat = 2 * (s.reg x).toNat)

/-- R190, effect: the drawn byte masked with `nn`, whatever byte is drawn; the draw is taken also when `nn` is 0 (the
draw is a free value, decision D20, log entry 8; the encoding is general knowledge, log entry 1). -/
def Obligations.RandomIsTheMaskedDraw : Prop :=
  ∀ (s : State) (x : Reg) (nn : Byte), ∃ t, exec (.rndVxNn x nn) s = .next t ∧
    t.reg x = Config.randomByte s.draws &&& nn ∧ (nn = 0 → t.reg x = 0) ∧ t.draws = s.draws + 1 ∧
    RegsUnchangedExcept [x] s t ∧ Frame [.v, .draws] s t

/-! ## Control flow -/

/-- R140, effect: every cell off and DIRTY set on every execution (D19, log entry 23; encoding log entry 1). -/
def Obligations.ClearScreenTurnsEveryCellOff : Prop :=
  ∀ s : State, ∃ t, exec .cls s = .next t ∧
    (∀ (c : Fin 64) (r : Fin 32), Display.cell t.disp c r = false) ∧ t.dirty = true ∧ Frame [.disp, .dirty] s t

/-- R142: 1NNN, encoding and effect. -/
def Obligations.JumpSetsPcExactly : Prop :=
  (∀ op : Word, op &&& 0xF000 = 0x1000 → decodeWord op = some (.jpNnn (nnnOf op))) ∧
  ∀ (s : State) (nnn : Addr12), ∃ t, exec (.jpNnn nnn) s = .next t ∧ t.pc.toNat = nnn.toNat ∧ Frame [.pc] s t

/-- R141 and R144, effects where there is room: CALL pushes the post-increment `pc` into slot SP and jumps; RET takes the
newest slot into `pc` and leaves every slot (the slot order is decision D31, log entry 25; encodings log entry 1). -/
def Obligations.CallPushesAndRetPops : Prop :=
  (∀ (s : State) (nnn : Addr12) (h : s.sp.val < 16), ∃ t, exec (.callNnn nnn) s = .next t ∧
    t.pc.toNat = nnn.toNat ∧ t.sp.val = s.sp.val + 1 ∧ t.stack[s.sp.val] = s.pc ∧
    (∀ k : Fin 16, k.val ≠ s.sp.val → t.stack[k] = s.stack[k]) ∧ Frame [.pc, .sp, .stack] s t) ∧
  (∀ (s : State) (h : 0 < s.sp.val), ∃ t, exec .ret s = .next t ∧
    t.pc = s.stack[s.sp.val - 1] ∧ t.sp.val + 1 = s.sp.val ∧ Frame [.pc, .sp] s t)

/-- R30: a push at SP = 16 raises StackOverflow and a pop at SP = 0 raises StackUnderflow, each with the instruction's
address (R141, R144) and nothing else changed (R266, decisions D8, D22; log entries 11, 12), so the depth stays in 0..16
in the next state of every instruction, which moves it by at most 1. -/
def Obligations.StackDisciplineViolationsAreFatal : Prop :=
  (∀ (s : State) (nnn : Addr12), s.sp.val = 16 → ∃ t, exec (.callNnn nnn) s = .next t ∧
    HaltsWith .stackOverflow (s.pc - 2).toNat s t) ∧
  (∀ s : State, s.sp.val = 0 → ∃ t, exec .ret s = .next t ∧ HaltsWith .stackUnderflow (s.pc - 2).toNat s t) ∧
  (∀ (i : Instr) (s t : State), exec i s = .next t →
    t.sp.val ≤ 16 ∧ t.sp.val ≤ s.sp.val + 1 ∧ s.sp.val ≤ t.sp.val + 1)

/-- R143: a CALL, then anything that leaves the stack as it found it, then a RET restores `pc` to the address after the
CALL and SP to its value before it (derived by the spec from R141 and R144). -/
def Obligations.ReturnUndoesCall : Prop :=
  ∀ (s t u w : State) (nnn : Addr12), s.sp.val < 16 → exec (.callNnn nnn) s = .next t →
    u.stack = t.stack → u.sp = t.sp → exec .ret u = .next w → w.pc = s.pc ∧ w.sp = s.sp

/-- R149: every skip, the key skips included, moves `pc` by exactly 2 when its condition holds and not at all otherwise,
and changes nothing else. The key skips are stated for a key index of 0..15; above 15 they raise an error. -/
def Obligations.SkipsMoveByOneInstruction : Prop :=
  ∀ (s : State) (x y : Reg) (nn : Byte),
    (∃ t, exec (.seVxNn x nn) s = .next t ∧ Frame [.pc] s t ∧ t.pc = if s.reg x = nn then s.pc + 2 else s.pc) ∧
    (∃ t, exec (.sneVxNn x nn) s = .next t ∧ Frame [.pc] s t ∧ t.pc = if s.reg x = nn then s.pc else s.pc + 2) ∧
    (∃ t, exec (.seVxVy x y) s = .next t ∧ Frame [.pc] s t ∧ t.pc = if s.reg x = s.reg y then s.pc + 2 else s.pc) ∧
    (∃ t, exec (.sneVxVy x y) s = .next t ∧ Frame [.pc] s t ∧ t.pc = if s.reg x = s.reg y then s.pc else s.pc + 2) ∧
    (∀ k : Fin 16, k.val = (s.reg x).toNat →
      (∃ t, exec (.skpVx x) s = .next t ∧ Frame [.pc] s t ∧ t.pc = if s.keyDown k then s.pc + 2 else s.pc) ∧
      (∃ t, exec (.sknpVx x) s = .next t ∧ Frame [.pc] s t ∧ t.pc = if s.keyDown k then s.pc else s.pc + 2))

/-- R160, effect: `pc` becomes nnn + V[0], not reduced to 12 bits (decision D32, log entry 24; encoding log entry 1). -/
def Obligations.JumpWithOffsetAddsV0 : Prop :=
  ∀ (s : State) (nnn : Addr12), ∃ t, exec (.jpV0Nnn nnn) s = .next t ∧
    t.pc.toNat = nnn.toNat + (s.reg 0).toNat ∧ Frame [.pc] s t

/-! ## Display -/

/-- R200 to R205, effect where the sprite lies in memory: exactly the cells under a set sprite bit are flipped, each
pixel wrapping by itself; VF ends as 1 exactly when a set bit met a cell that was on; DIRTY is set. The coordinates are
read before VF is written (decision D34, log entry 22); height 0 draws nothing, and its I may be any (D18, log entry
21); the encoding is log entry 1. -/
def Obligations.DrawFlipsExactlyTheSpriteBits : Prop :=
  ∀ (s : State) (x y : Reg) (n : Nibble), InMemory s.index.toNat n.toNat →
    ∃ t, exec (.drwVxVyN x y n) s = .next t ∧
      (∀ c r, SpriteCovers s x y n c r → Display.cell t.disp c r = !Display.cell s.disp c r) ∧
      (∀ c r, ¬ SpriteCovers s x y n c r → Display.cell t.disp c r = Display.cell s.disp c r) ∧
      ((∃ c r, SpriteCovers s x y n c r ∧ Display.cell s.disp c r = true) → t.reg vf = 1) ∧
      ((¬ ∃ c r, SpriteCovers s x y n c r ∧ Display.cell s.disp c r = true) → t.reg vf = 0) ∧
      t.dirty = true ∧ RegsUnchangedExcept [vf] s t ∧ Frame [.v, .disp, .dirty] s t

/-- R206: drawing the same sprite twice at the same coordinates restores every cell, and the second draw sets VF exactly
when a set bit lands on a cell that was off before the first (derived by the spec from R200, R201). -/
def Obligations.SecondDrawUndoesTheFirst : Prop :=
  ∀ (s t u : State) (x y : Reg) (n : Nibble), InMemory s.index.toNat n.toNat →
    exec (.drwVxVyN x y n) s = .next t → t.reg x = s.reg x → t.reg y = s.reg y →
    exec (.drwVxVyN x y n) t = .next u →
      (∀ c r, Display.cell u.disp c r = Display.cell s.disp c r) ∧
      (u.reg vf = 1 ↔ ∃ c r, SpriteCovers s x y n c r ∧ Display.cell s.disp c r = false)

/-! ## Index, keys, timers, memory -/

/-- R220, effect: I becomes nnn (the whole instruction is the spec's general knowledge, D10, log entry 2). -/
def Obligations.LoadIndexWritesTheAddress : Prop :=
  ∀ (s : State) (nnn : Addr12), ∃ t, exec (.ldINnn nnn) s = .next t ∧ t.index.toNat = nnn.toNat ∧ Frame [.index] s t

/-- R56: FX29 sets I to 5 times the low nibble of V[x]. -/
def Obligations.FontLookupPointsAtTheGlyph : Prop :=
  ∀ (s : State) (x : Reg), ∃ t, exec (.ldFVx x) s = .next t ∧
    t.index.toNat = 5 * ((s.reg x).toNat % 16) ∧ Frame [.index] s t

/-- R230, R232, R234, effects: FX07 reads DT into V[x], FX15 and FX18 write V[x] into DT and ST (encodings log entry 1). -/
def Obligations.TimersAreReadAndSetByTheirInstructions : Prop :=
  ∀ (s : State) (x : Reg),
    (∃ t, exec (.ldVxDt x) s = .next t ∧ t.reg x = s.dt ∧ RegsUnchangedExcept [x] s t ∧ Frame [.v] s t) ∧
    (∃ t, exec (.ldDtVx x) s = .next t ∧ t.dt = s.reg x ∧ Frame [.dt] s t) ∧
    (∃ t, exec (.ldStVx x) s = .next t ∧ t.st = s.reg x ∧ Frame [.st] s t)

/-- R246, effect: with some key pressed V[x] gets the lowest pressed key's index and `pc` stays advanced; with none `pc`
goes back by 2 and nothing else changes (a held key is taken at once by decision D30, log entry 19; encoding log 1). -/
def Obligations.WaitTakesTheLowestPressedKey : Prop :=
  ∀ (s : State) (x : Reg),
    (∀ k : Fin 16, s.keyDown k = true → (∀ j : Fin 16, j < k → s.keyDown j = false) →
      ∃ t, exec (.ldVxK x) s = .next t ∧ (t.reg x).toNat = k.val ∧ RegsUnchangedExcept [x] s t ∧ Frame [.v] s t) ∧
    ((∀ k : Fin 16, s.keyDown k = false) →
      ∃ t, exec (.ldVxK x) s = .next t ∧ t.pc = s.pc - 2 ∧ Frame [.pc] s t)

/-- R119: a cycle that executes FX0A with no key pressed returns `Ok` and leaves `pc` at the instruction; nothing of the
core changes. It holds whether the Cycle call waited or is the host's free choice, which is the model's choice (log
entries 27, 38), as is that the result is kept in the state (log entry 28). -/
def Obligations.WaitingCycleLeavesTheCoreAsItIs : Prop :=
  ∀ (s : State) (op : Word) (x : Reg), Fetches s op → decodeWord op = some (.ldVxK x) →
    (∀ k : Fin 16, s.keyDown k = false) →
      ∃ t, step s = .next t ∧ t.reply = .ok ∧ t.pc = s.pc ∧ CoreUnchangedExcept [] s t

/-- R236, effect under each policy: the sum where it is an address; past 0xFFF the error, or the sum mod 2^12 or 2^16
(policy `fault` is the spec's default D15, all three are modelled, log entry 5; encoding log entry 1). -/
def Obligations.IndexAddFollowsItsPolicy : Prop :=
  ∀ (s : State) (x : Reg),
    (s.index.toNat + (s.reg x).toNat ≤ 0xFFF → ∃ t, exec (.addIVx x) s = .next t ∧
      t.index.toNat = s.index.toNat + (s.reg x).toNat ∧ Frame [.index] s t) ∧
    (0xFFF < s.index.toNat + (s.reg x).toNat → s.cfg.indexAdd = .fault → ∃ t, exec (.addIVx x) s = .next t ∧
      HaltsWith .memoryOutOfRange (s.index.toNat + (s.reg x).toNat) s t) ∧
    (s.cfg.indexAdd = .wrap12 → ∃ t, exec (.addIVx x) s = .next t ∧
      t.index.toNat = (s.index.toNat + (s.reg x).toNat) % 4096 ∧ Frame [.index] s t) ∧
    (s.cfg.indexAdd = .wrap16 → ∃ t, exec (.addIVx x) s = .next t ∧
      t.index.toNat = (s.index.toNat + (s.reg x).toNat) % 65536 ∧ Frame [.index] s t)

/-- R240, effect where the store is permitted: the three decimal digits at I, I+1, I+2; every other byte, I and all else
unchanged (when a store is permitted is decision D6, log entry 6; encoding log entry 1). -/
def Obligations.BcdStoresThreeDigits : Prop :=
  ∀ (s : State) (x : Reg), Memory.wf s.cfg.fontTable s.mem = true → StorePermitted s 3 →
    ∃ t, exec (.ldBVx x) s = .next t ∧
      (t.readByte s.index.toNat).toNat = (s.reg x).toNat / 100 ∧
      (t.readByte (s.index.toNat + 1)).toNat = (s.reg x).toNat / 10 % 10 ∧
      (t.readByte (s.index.toNat + 2)).toNat = (s.reg x).toNat % 10 ∧
      (∀ a : Nat, (a < s.index.toNat ∨ s.index.toNat + 3 ≤ a) → t.readByte a = s.readByte a) ∧
      Memory.wf t.cfg.fontTable t.mem = true ∧ Frame [.mem] s t

/-- R242, effect where the store is permitted: V[0..x] at I .. I+x; every other byte, I and all else unchanged (I by
decision D16, log entry 20; permission D6, log entry 6; encoding log entry 1). -/
def Obligations.BlockStoreCopiesTheRegisters : Prop :=
  ∀ (s : State) (x : Reg), Memory.wf s.cfg.fontTable s.mem = true → StorePermitted s (x.val + 1) →
    ∃ t, exec (.ldMemIVx x) s = .next t ∧
      (∀ k : Reg, k ≤ x → t.readByte (s.index.toNat + k.val) = s.reg k) ∧
      (∀ a : Nat, (a < s.index.toNat ∨ s.index.toNat + x.val < a) → t.readByte a = s.readByte a) ∧
      Memory.wf t.cfg.fontTable t.mem = true ∧ Frame [.mem] s t

/-- R244, effect where the span lies in memory: V[k] gets the byte at I+k for every k up to x; I unchanged (D16, log
entry 20), every other register kept (encoding log entry 1). -/
def Obligations.BlockLoadCopiesTheBytes : Prop :=
  ∀ (s : State) (x : Reg), InMemory s.index.toNat (x.val + 1) →
    ∃ t, exec (.ldVxMemI x) s = .next t ∧
      (∀ k : Reg, k ≤ x → t.reg k = s.readByte (s.index.toNat + k.val)) ∧
      (∀ k : Reg, x < k → t.reg k = s.reg k) ∧ Frame [.v] s t

/-- R57: CheckRead raises MemoryOutOfRange exactly when the span leaves memory, with the lowest address of the span that
lies outside; the empty span passes. -/
def Obligations.ReadCheckReportsTheFirstAddressOutside : Prop :=
  ∀ a n : Nat,
    (n = 0 → checkRead a n = none) ∧
    (1 ≤ n → a + n - 1 ≤ 0xFFF → checkRead a n = none) ∧
    (1 ≤ n → 0xFFF < a + n - 1 → ∃ b, checkRead a n = some ⟨.memoryOutOfRange, b⟩ ∧ b = max a 0x1000 ∧
      a ≤ b ∧ b < a + n ∧ 0xFFF < b ∧ ∀ c, a ≤ c → c < a + n → 0xFFF < c → b ≤ c)

/-- R200, R221, R244, errors: a draw or block load whose span leaves memory raises MemoryOutOfRange, a key skip with
V[x] above 15 raises KeyIndexOutOfRange with the value, and nothing else changes (decisions D8, D17; log entries 12,
18). -/
def Obligations.FailedReadsAndKeysAreFatal : Prop :=
  ∀ (s : State) (x y : Reg) (n : Nibble),
    (¬ InMemory s.index.toNat n.toNat → ∃ t, exec (.drwVxVyN x y n) s = .next t ∧
      HaltsWith .memoryOutOfRange (max s.index.toNat 0x1000) s t) ∧
    (¬ InMemory s.index.toNat (x.val + 1) → ∃ t, exec (.ldVxMemI x) s = .next t ∧
      HaltsWith .memoryOutOfRange (max s.index.toNat 0x1000) s t) ∧
    (15 < (s.reg x).toNat →
      (∃ t, exec (.skpVx x) s = .next t ∧ HaltsWith .keyIndexOutOfRange (s.reg x).toNat s t) ∧
      (∃ t, exec (.sknpVx x) s = .next t ∧ HaltsWith .keyIndexOutOfRange (s.reg x).toNat s t))

/-- R58, R240, R242, errors: a store whose span leaves memory raises MemoryOutOfRange, and under the policy `fault` one
that starts in the font raises ReadOnlyWrite with I; nothing is written (decisions D6, D8; log entries 6, 12). -/
def Obligations.FailedStoresAreFatalAndWriteNothing : Prop :=
  ∀ (s : State) (x : Reg) (i : Instr) (n : Nat), (i = .ldBVx x ∧ n = 3) ∨ (i = .ldMemIVx x ∧ n = x.val + 1) →
    (0x1000 < s.index.toNat + n → ∃ t, exec i s = .next t ∧
      HaltsWith .memoryOutOfRange (max s.index.toNat 0x1000) s t) ∧
    (s.cfg.fontWrite = .fault → s.index.toNat ≤ 0x04F → ∃ t, exec i s = .next t ∧
      HaltsWith .readOnlyWrite s.index.toNat s t)

/-- R63: two registers that FX55 stored are the word a later fetch at their address reads, high byte first (decision D7,
log entry 17). -/
def Obligations.StoredWordIsWhatIsFetched : Prop :=
  ∀ (s t : State) (x j k : Reg), Memory.wf s.cfg.fontTable s.mem = true → StorePermitted s (x.val + 1) →
    exec (.ldMemIVx x) s = .next t → k ≤ x → k.val = j.val + 1 →
      (t.readWord (s.index.toNat + j.val)).toNat = (s.reg j).toNat * 256 + (s.reg k).toNat
end

