-- ==== Sys2Proof/Laws/Decode.lean ====
section
/-! SUPPORT. The laws of the encoding: the fields of an encoded word, the bits its row fixes, and that no two rows
overlap. -/

namespace Sys2Proof

/-! ## The fields of a format -/

theorem xOf_formatXnn (f : Nibble) (x : Reg) (nn : Byte) : xOf (formatXnn f x nn) = x := by
  have : (formatXnn f x nn).extractLsb' 8 4 = regField x := by
    unfold formatXnn; ext i hi
    simp only [BitVec.getElem_extractLsb', BitVec.getLsbD_append]
    simp [hi]
  simp [xOf, this, regField]

theorem nnOf_formatXnn (f : Nibble) (x : Reg) (nn : Byte) : nnOf (formatXnn f x nn) = nn := by
  unfold nnOf formatXnn; ext i hi
  simp only [BitVec.getElem_extractLsb', BitVec.getLsbD_append]
  simp [hi]

theorem nnnOf_formatNnn (f : Nibble) (nnn : Addr12) : nnnOf (formatNnn f nnn) = nnn := by
  unfold nnnOf formatNnn; ext i hi
  simp only [BitVec.getElem_extractLsb', BitVec.getLsbD_append]
  simp [hi]

theorem xOf_formatXyn (f : Nibble) (x y : Reg) (n : Nibble) : xOf (formatXyn f x y n) = x := by
  have : (formatXyn f x y n).extractLsb' 8 4 = regField x := by
    unfold formatXyn; ext i hi
    simp only [BitVec.getElem_extractLsb', BitVec.getLsbD_append]
    simp [hi, show ¬ 8 + i < 4 by omega, show ¬ 8 + i - 4 < 4 by omega, show 8 + i - 4 - 4 = i by omega]
  simp [xOf, this, regField]

theorem yOf_formatXyn (f : Nibble) (x y : Reg) (n : Nibble) : yOf (formatXyn f x y n) = y := by
  have : (formatXyn f x y n).extractLsb' 4 4 = regField y := by
    unfold formatXyn; ext i hi
    simp only [BitVec.getElem_extractLsb', BitVec.getLsbD_append]
    simp [hi]
  simp [yOf, this, regField]

theorem nOf_formatXyn (f : Nibble) (x y : Reg) (n : Nibble) : nOf (formatXyn f x y n) = n := by
  unfold nOf formatXyn; ext i hi
  simp only [BitVec.getElem_extractLsb', BitVec.getLsbD_append]
  simp [hi]

/-! ## The fixed bits of a format -/

theorem formatNnn_fixed (f : Nibble) (nnn : Addr12) : formatNnn f nnn &&& 0xF000 = formatNnn f 0 := by
  rw [show (0xF000 : Word) = formatNnn 0xF 0 by decide]
  unfold formatNnn
  rw [BitVec.and_append, show f &&& 0xF = f by revert f; decide, show nnn &&& 0 = 0 by simp]

theorem formatXnn_fixed (f : Nibble) (x : Reg) (nn : Byte) : formatXnn f x nn &&& 0xF000 = formatXnn f 0 0 := by
  rw [show (0xF000 : Word) = 0xF#4 ++ 0#4 ++ 0#8 by decide]
  unfold formatXnn
  rw [BitVec.and_append, BitVec.and_append, show f &&& 0xF#4 = f by revert f; decide,
    show regField x &&& 0#4 = regField 0 by revert x; decide, show nn &&& 0#8 = 0 by simp]

theorem formatX_fixed (f : Nibble) (x : Reg) (nn : Byte) : formatXnn f x nn &&& 0xF0FF = formatXnn f 0 nn := by
  rw [show (0xF0FF : Word) = 0xF#4 ++ 0#4 ++ 0xFF#8 by decide]
  unfold formatXnn
  rw [BitVec.and_append, BitVec.and_append, show f &&& 0xF#4 = f by revert f; decide,
    show regField x &&& 0#4 = regField 0 by revert x; decide,
    show nn &&& 0xFF#8 = nn from BitVec.and_allOnes (x := nn)]

theorem formatXy_fixed (f : Nibble) (x y : Reg) (n : Nibble) :
    formatXyn f x y n &&& 0xF00F = formatXyn f 0 0 n := by
  rw [show (0xF00F : Word) = 0xF#4 ++ 0#4 ++ 0#4 ++ 0xF#4 by decide]
  unfold formatXyn
  rw [BitVec.and_append, BitVec.and_append, BitVec.and_append, show f &&& 0xF#4 = f by revert f; decide,
    show regField x &&& 0#4 = regField 0 by revert x; decide,
    show regField y &&& 0#4 = regField 0 by revert y; decide, show n &&& 0xF#4 = n by revert n; decide]

theorem formatXyn_fixed (f : Nibble) (x y : Reg) (n : Nibble) :
    formatXyn f x y n &&& 0xF000 = formatXyn f 0 0 0 := by
  rw [show (0xF000 : Word) = 0xF#4 ++ 0#4 ++ 0#4 ++ 0#4 by decide]
  unfold formatXyn
  rw [BitVec.and_append, BitVec.and_append, BitVec.and_append, show f &&& 0xF#4 = f by revert f; decide,
    show regField x &&& 0#4 = regField 0 by revert x; decide,
    show regField y &&& 0#4 = regField 0 by revert y; decide, show n &&& 0#4 = 0 by revert n; decide]

/-! ## The rows -/

/-- Every row fixes bits inside its mask only. -/
theorem opcodeTable_patterns_wf : (opcodeTable.all fun r => wfPattern r.mask r.pattern) = true := by decide

/-- Any two rows fix some bit differently (R90). -/
theorem opcodeTable_pairwise_disjoint :
    opcodeTable.Pairwise fun r₁ r₂ => disjointPatterns r₁.mask r₁.pattern r₂.mask r₂.pattern = true := by decide

/-- No word fits two disjoint rows. -/
theorem not_fits_both {r₁ r₂ : Row} (h : disjointPatterns r₁.mask r₁.pattern r₂.mask r₂.pattern = true) (op : Word)
    (h₁ : r₁.fits op = true) : r₂.fits op = false := by
  cases h₂ : r₂.fits op with
  | false => rfl
  | true =>
    simp only [Row.fits, beq_iff_eq] at h₁ h₂
    exfalso
    have key : (r₁.mask &&& r₂.mask) &&& (r₁.pattern ^^^ r₂.pattern) = 0 := by
      rw [← h₁, ← h₂]
      ext i hi
      simp only [BitVec.getElem_and, BitVec.getElem_xor]
      cases op[i] <;> cases r₁.mask[i] <;> cases r₂.mask[i] <;> simp
    simp [disjointPatterns, key] at h

end Sys2Proof
end

