-- ==== Sys2Proof/Laws/State.lean ====
section
/-! SUPPORT. One lemma per field per update of the state, so that no proof unfolds a record update. -/

namespace Sys2Proof.Machine

/-! ## State.setV -/

@[simp] theorem State.setV_mem (s : State) (x : Reg) (b : Byte) : (s.setV x b).mem = s.mem := rfl
@[simp] theorem State.setV_v (s : State) (x : Reg) (b : Byte) : (s.setV x b).v = s.v.set x b := rfl
@[simp] theorem State.setV_index (s : State) (x : Reg) (b : Byte) : (s.setV x b).index = s.index := rfl
@[simp] theorem State.setV_pc (s : State) (x : Reg) (b : Byte) : (s.setV x b).pc = s.pc := rfl
@[simp] theorem State.setV_stack (s : State) (x : Reg) (b : Byte) : (s.setV x b).stack = s.stack := rfl
@[simp] theorem State.setV_sp (s : State) (x : Reg) (b : Byte) : (s.setV x b).sp = s.sp := rfl
@[simp] theorem State.setV_dt (s : State) (x : Reg) (b : Byte) : (s.setV x b).dt = s.dt := rfl
@[simp] theorem State.setV_st (s : State) (x : Reg) (b : Byte) : (s.setV x b).st = s.st := rfl
@[simp] theorem State.setV_key (s : State) (x : Reg) (b : Byte) : (s.setV x b).key = s.key := rfl
@[simp] theorem State.setV_disp (s : State) (x : Reg) (b : Byte) : (s.setV x b).disp = s.disp := rfl
@[simp] theorem State.setV_dirty (s : State) (x : Reg) (b : Byte) : (s.setV x b).dirty = s.dirty := rfl
@[simp] theorem State.setV_halt (s : State) (x : Reg) (b : Byte) : (s.setV x b).halt = s.halt := rfl
@[simp] theorem State.setV_cfg (s : State) (x : Reg) (b : Byte) : (s.setV x b).cfg = s.cfg := rfl
@[simp] theorem State.setV_draws (s : State) (x : Reg) (b : Byte) : (s.setV x b).draws = s.draws := rfl
@[simp] theorem State.setV_calls (s : State) (x : Reg) (b : Byte) : (s.setV x b).calls = s.calls := rfl
@[simp] theorem State.setV_hostTurn (s : State) (x : Reg) (b : Byte) : (s.setV x b).hostTurn = s.hostTurn := rfl
@[simp] theorem State.setV_reply (s : State) (x : Reg) (b : Byte) : (s.setV x b).reply = s.reply := rfl
@[simp] theorem State.setV_unknowns (s : State) (x : Reg) (b : Byte) : (s.setV x b).unknowns = s.unknowns := rfl
@[simp] theorem State.setV_phase (s : State) (x : Reg) (b : Byte) : (s.setV x b).phase = s.phase := rfl

/-! ## State.setIndex -/

@[simp] theorem State.setIndex_mem (s : State) (a : Word) : (s.setIndex a).mem = s.mem := rfl
@[simp] theorem State.setIndex_v (s : State) (a : Word) : (s.setIndex a).v = s.v := rfl
@[simp] theorem State.setIndex_index (s : State) (a : Word) : (s.setIndex a).index = a := rfl
@[simp] theorem State.setIndex_pc (s : State) (a : Word) : (s.setIndex a).pc = s.pc := rfl
@[simp] theorem State.setIndex_stack (s : State) (a : Word) : (s.setIndex a).stack = s.stack := rfl
@[simp] theorem State.setIndex_sp (s : State) (a : Word) : (s.setIndex a).sp = s.sp := rfl
@[simp] theorem State.setIndex_dt (s : State) (a : Word) : (s.setIndex a).dt = s.dt := rfl
@[simp] theorem State.setIndex_st (s : State) (a : Word) : (s.setIndex a).st = s.st := rfl
@[simp] theorem State.setIndex_key (s : State) (a : Word) : (s.setIndex a).key = s.key := rfl
@[simp] theorem State.setIndex_disp (s : State) (a : Word) : (s.setIndex a).disp = s.disp := rfl
@[simp] theorem State.setIndex_dirty (s : State) (a : Word) : (s.setIndex a).dirty = s.dirty := rfl
@[simp] theorem State.setIndex_halt (s : State) (a : Word) : (s.setIndex a).halt = s.halt := rfl
@[simp] theorem State.setIndex_cfg (s : State) (a : Word) : (s.setIndex a).cfg = s.cfg := rfl
@[simp] theorem State.setIndex_draws (s : State) (a : Word) : (s.setIndex a).draws = s.draws := rfl
@[simp] theorem State.setIndex_calls (s : State) (a : Word) : (s.setIndex a).calls = s.calls := rfl
@[simp] theorem State.setIndex_hostTurn (s : State) (a : Word) : (s.setIndex a).hostTurn = s.hostTurn := rfl
@[simp] theorem State.setIndex_reply (s : State) (a : Word) : (s.setIndex a).reply = s.reply := rfl
@[simp] theorem State.setIndex_unknowns (s : State) (a : Word) : (s.setIndex a).unknowns = s.unknowns := rfl
@[simp] theorem State.setIndex_phase (s : State) (a : Word) : (s.setIndex a).phase = s.phase := rfl

/-! ## State.setPc -/

@[simp] theorem State.setPc_mem (s : State) (a : Word) : (s.setPc a).mem = s.mem := rfl
@[simp] theorem State.setPc_v (s : State) (a : Word) : (s.setPc a).v = s.v := rfl
@[simp] theorem State.setPc_index (s : State) (a : Word) : (s.setPc a).index = s.index := rfl
@[simp] theorem State.setPc_pc (s : State) (a : Word) : (s.setPc a).pc = a := rfl
@[simp] theorem State.setPc_stack (s : State) (a : Word) : (s.setPc a).stack = s.stack := rfl
@[simp] theorem State.setPc_sp (s : State) (a : Word) : (s.setPc a).sp = s.sp := rfl
@[simp] theorem State.setPc_dt (s : State) (a : Word) : (s.setPc a).dt = s.dt := rfl
@[simp] theorem State.setPc_st (s : State) (a : Word) : (s.setPc a).st = s.st := rfl
@[simp] theorem State.setPc_key (s : State) (a : Word) : (s.setPc a).key = s.key := rfl
@[simp] theorem State.setPc_disp (s : State) (a : Word) : (s.setPc a).disp = s.disp := rfl
@[simp] theorem State.setPc_dirty (s : State) (a : Word) : (s.setPc a).dirty = s.dirty := rfl
@[simp] theorem State.setPc_halt (s : State) (a : Word) : (s.setPc a).halt = s.halt := rfl
@[simp] theorem State.setPc_cfg (s : State) (a : Word) : (s.setPc a).cfg = s.cfg := rfl
@[simp] theorem State.setPc_draws (s : State) (a : Word) : (s.setPc a).draws = s.draws := rfl
@[simp] theorem State.setPc_calls (s : State) (a : Word) : (s.setPc a).calls = s.calls := rfl
@[simp] theorem State.setPc_hostTurn (s : State) (a : Word) : (s.setPc a).hostTurn = s.hostTurn := rfl
@[simp] theorem State.setPc_reply (s : State) (a : Word) : (s.setPc a).reply = s.reply := rfl
@[simp] theorem State.setPc_unknowns (s : State) (a : Word) : (s.setPc a).unknowns = s.unknowns := rfl
@[simp] theorem State.setPc_phase (s : State) (a : Word) : (s.setPc a).phase = s.phase := rfl

/-! ## State.setDt -/

@[simp] theorem State.setDt_mem (s : State) (b : Byte) : (s.setDt b).mem = s.mem := rfl
@[simp] theorem State.setDt_v (s : State) (b : Byte) : (s.setDt b).v = s.v := rfl
@[simp] theorem State.setDt_index (s : State) (b : Byte) : (s.setDt b).index = s.index := rfl
@[simp] theorem State.setDt_pc (s : State) (b : Byte) : (s.setDt b).pc = s.pc := rfl
@[simp] theorem State.setDt_stack (s : State) (b : Byte) : (s.setDt b).stack = s.stack := rfl
@[simp] theorem State.setDt_sp (s : State) (b : Byte) : (s.setDt b).sp = s.sp := rfl
@[simp] theorem State.setDt_dt (s : State) (b : Byte) : (s.setDt b).dt = b := rfl
@[simp] theorem State.setDt_st (s : State) (b : Byte) : (s.setDt b).st = s.st := rfl
@[simp] theorem State.setDt_key (s : State) (b : Byte) : (s.setDt b).key = s.key := rfl
@[simp] theorem State.setDt_disp (s : State) (b : Byte) : (s.setDt b).disp = s.disp := rfl
@[simp] theorem State.setDt_dirty (s : State) (b : Byte) : (s.setDt b).dirty = s.dirty := rfl
@[simp] theorem State.setDt_halt (s : State) (b : Byte) : (s.setDt b).halt = s.halt := rfl
@[simp] theorem State.setDt_cfg (s : State) (b : Byte) : (s.setDt b).cfg = s.cfg := rfl
@[simp] theorem State.setDt_draws (s : State) (b : Byte) : (s.setDt b).draws = s.draws := rfl
@[simp] theorem State.setDt_calls (s : State) (b : Byte) : (s.setDt b).calls = s.calls := rfl
@[simp] theorem State.setDt_hostTurn (s : State) (b : Byte) : (s.setDt b).hostTurn = s.hostTurn := rfl
@[simp] theorem State.setDt_reply (s : State) (b : Byte) : (s.setDt b).reply = s.reply := rfl
@[simp] theorem State.setDt_unknowns (s : State) (b : Byte) : (s.setDt b).unknowns = s.unknowns := rfl
@[simp] theorem State.setDt_phase (s : State) (b : Byte) : (s.setDt b).phase = s.phase := rfl

/-! ## State.setSt -/

@[simp] theorem State.setSt_mem (s : State) (b : Byte) : (s.setSt b).mem = s.mem := rfl
@[simp] theorem State.setSt_v (s : State) (b : Byte) : (s.setSt b).v = s.v := rfl
@[simp] theorem State.setSt_index (s : State) (b : Byte) : (s.setSt b).index = s.index := rfl
@[simp] theorem State.setSt_pc (s : State) (b : Byte) : (s.setSt b).pc = s.pc := rfl
@[simp] theorem State.setSt_stack (s : State) (b : Byte) : (s.setSt b).stack = s.stack := rfl
@[simp] theorem State.setSt_sp (s : State) (b : Byte) : (s.setSt b).sp = s.sp := rfl
@[simp] theorem State.setSt_dt (s : State) (b : Byte) : (s.setSt b).dt = s.dt := rfl
@[simp] theorem State.setSt_st (s : State) (b : Byte) : (s.setSt b).st = b := rfl
@[simp] theorem State.setSt_key (s : State) (b : Byte) : (s.setSt b).key = s.key := rfl
@[simp] theorem State.setSt_disp (s : State) (b : Byte) : (s.setSt b).disp = s.disp := rfl
@[simp] theorem State.setSt_dirty (s : State) (b : Byte) : (s.setSt b).dirty = s.dirty := rfl
@[simp] theorem State.setSt_halt (s : State) (b : Byte) : (s.setSt b).halt = s.halt := rfl
@[simp] theorem State.setSt_cfg (s : State) (b : Byte) : (s.setSt b).cfg = s.cfg := rfl
@[simp] theorem State.setSt_draws (s : State) (b : Byte) : (s.setSt b).draws = s.draws := rfl
@[simp] theorem State.setSt_calls (s : State) (b : Byte) : (s.setSt b).calls = s.calls := rfl
@[simp] theorem State.setSt_hostTurn (s : State) (b : Byte) : (s.setSt b).hostTurn = s.hostTurn := rfl
@[simp] theorem State.setSt_reply (s : State) (b : Byte) : (s.setSt b).reply = s.reply := rfl
@[simp] theorem State.setSt_unknowns (s : State) (b : Byte) : (s.setSt b).unknowns = s.unknowns := rfl
@[simp] theorem State.setSt_phase (s : State) (b : Byte) : (s.setSt b).phase = s.phase := rfl

/-! ## State.setDisp -/

@[simp] theorem State.setDisp_mem (s : State) (d : Display) : (s.setDisp d).mem = s.mem := rfl
@[simp] theorem State.setDisp_v (s : State) (d : Display) : (s.setDisp d).v = s.v := rfl
@[simp] theorem State.setDisp_index (s : State) (d : Display) : (s.setDisp d).index = s.index := rfl
@[simp] theorem State.setDisp_pc (s : State) (d : Display) : (s.setDisp d).pc = s.pc := rfl
@[simp] theorem State.setDisp_stack (s : State) (d : Display) : (s.setDisp d).stack = s.stack := rfl
@[simp] theorem State.setDisp_sp (s : State) (d : Display) : (s.setDisp d).sp = s.sp := rfl
@[simp] theorem State.setDisp_dt (s : State) (d : Display) : (s.setDisp d).dt = s.dt := rfl
@[simp] theorem State.setDisp_st (s : State) (d : Display) : (s.setDisp d).st = s.st := rfl
@[simp] theorem State.setDisp_key (s : State) (d : Display) : (s.setDisp d).key = s.key := rfl
@[simp] theorem State.setDisp_disp (s : State) (d : Display) : (s.setDisp d).disp = d := rfl
@[simp] theorem State.setDisp_dirty (s : State) (d : Display) : (s.setDisp d).dirty = true := rfl
@[simp] theorem State.setDisp_halt (s : State) (d : Display) : (s.setDisp d).halt = s.halt := rfl
@[simp] theorem State.setDisp_cfg (s : State) (d : Display) : (s.setDisp d).cfg = s.cfg := rfl
@[simp] theorem State.setDisp_draws (s : State) (d : Display) : (s.setDisp d).draws = s.draws := rfl
@[simp] theorem State.setDisp_calls (s : State) (d : Display) : (s.setDisp d).calls = s.calls := rfl
@[simp] theorem State.setDisp_hostTurn (s : State) (d : Display) : (s.setDisp d).hostTurn = s.hostTurn := rfl
@[simp] theorem State.setDisp_reply (s : State) (d : Display) : (s.setDisp d).reply = s.reply := rfl
@[simp] theorem State.setDisp_unknowns (s : State) (d : Display) : (s.setDisp d).unknowns = s.unknowns := rfl
@[simp] theorem State.setDisp_phase (s : State) (d : Display) : (s.setDisp d).phase = s.phase := rfl

/-! ## State.countDraw -/

@[simp] theorem State.countDraw_mem (s : State) : s.countDraw.mem = s.mem := rfl
@[simp] theorem State.countDraw_v (s : State) : s.countDraw.v = s.v := rfl
@[simp] theorem State.countDraw_index (s : State) : s.countDraw.index = s.index := rfl
@[simp] theorem State.countDraw_pc (s : State) : s.countDraw.pc = s.pc := rfl
@[simp] theorem State.countDraw_stack (s : State) : s.countDraw.stack = s.stack := rfl
@[simp] theorem State.countDraw_sp (s : State) : s.countDraw.sp = s.sp := rfl
@[simp] theorem State.countDraw_dt (s : State) : s.countDraw.dt = s.dt := rfl
@[simp] theorem State.countDraw_st (s : State) : s.countDraw.st = s.st := rfl
@[simp] theorem State.countDraw_key (s : State) : s.countDraw.key = s.key := rfl
@[simp] theorem State.countDraw_disp (s : State) : s.countDraw.disp = s.disp := rfl
@[simp] theorem State.countDraw_dirty (s : State) : s.countDraw.dirty = s.dirty := rfl
@[simp] theorem State.countDraw_halt (s : State) : s.countDraw.halt = s.halt := rfl
@[simp] theorem State.countDraw_cfg (s : State) : s.countDraw.cfg = s.cfg := rfl
@[simp] theorem State.countDraw_draws (s : State) : s.countDraw.draws = s.draws + 1 := rfl
@[simp] theorem State.countDraw_calls (s : State) : s.countDraw.calls = s.calls := rfl
@[simp] theorem State.countDraw_hostTurn (s : State) : s.countDraw.hostTurn = s.hostTurn := rfl
@[simp] theorem State.countDraw_reply (s : State) : s.countDraw.reply = s.reply := rfl
@[simp] theorem State.countDraw_unknowns (s : State) : s.countDraw.unknowns = s.unknowns := rfl
@[simp] theorem State.countDraw_phase (s : State) : s.countDraw.phase = s.phase := rfl

/-! ## State.writeBytes -/

@[simp] theorem State.writeBytes_mem (s : State) (a : Nat) (bs : List Byte) : (s.writeBytes a bs).mem = Memory.writeSpan s.cfg.fontTable s.mem a bs := rfl
@[simp] theorem State.writeBytes_v (s : State) (a : Nat) (bs : List Byte) : (s.writeBytes a bs).v = s.v := rfl
@[simp] theorem State.writeBytes_index (s : State) (a : Nat) (bs : List Byte) : (s.writeBytes a bs).index = s.index := rfl
@[simp] theorem State.writeBytes_pc (s : State) (a : Nat) (bs : List Byte) : (s.writeBytes a bs).pc = s.pc := rfl
@[simp] theorem State.writeBytes_stack (s : State) (a : Nat) (bs : List Byte) : (s.writeBytes a bs).stack = s.stack := rfl
@[simp] theorem State.writeBytes_sp (s : State) (a : Nat) (bs : List Byte) : (s.writeBytes a bs).sp = s.sp := rfl
@[simp] theorem State.writeBytes_dt (s : State) (a : Nat) (bs : List Byte) : (s.writeBytes a bs).dt = s.dt := rfl
@[simp] theorem State.writeBytes_st (s : State) (a : Nat) (bs : List Byte) : (s.writeBytes a bs).st = s.st := rfl
@[simp] theorem State.writeBytes_key (s : State) (a : Nat) (bs : List Byte) : (s.writeBytes a bs).key = s.key := rfl
@[simp] theorem State.writeBytes_disp (s : State) (a : Nat) (bs : List Byte) : (s.writeBytes a bs).disp = s.disp := rfl
@[simp] theorem State.writeBytes_dirty (s : State) (a : Nat) (bs : List Byte) : (s.writeBytes a bs).dirty = s.dirty := rfl
@[simp] theorem State.writeBytes_halt (s : State) (a : Nat) (bs : List Byte) : (s.writeBytes a bs).halt = s.halt := rfl
@[simp] theorem State.writeBytes_cfg (s : State) (a : Nat) (bs : List Byte) : (s.writeBytes a bs).cfg = s.cfg := rfl
@[simp] theorem State.writeBytes_draws (s : State) (a : Nat) (bs : List Byte) : (s.writeBytes a bs).draws = s.draws := rfl
@[simp] theorem State.writeBytes_calls (s : State) (a : Nat) (bs : List Byte) : (s.writeBytes a bs).calls = s.calls := rfl
@[simp] theorem State.writeBytes_hostTurn (s : State) (a : Nat) (bs : List Byte) : (s.writeBytes a bs).hostTurn = s.hostTurn := rfl
@[simp] theorem State.writeBytes_reply (s : State) (a : Nat) (bs : List Byte) : (s.writeBytes a bs).reply = s.reply := rfl
@[simp] theorem State.writeBytes_unknowns (s : State) (a : Nat) (bs : List Byte) : (s.writeBytes a bs).unknowns = s.unknowns := rfl
@[simp] theorem State.writeBytes_phase (s : State) (a : Nat) (bs : List Byte) : (s.writeBytes a bs).phase = s.phase := rfl

/-! ## State.loadRegs -/

@[simp] theorem State.loadRegs_mem (s : State) (x : Reg) : (s.loadRegs x).mem = s.mem := rfl
@[simp] theorem State.loadRegs_index (s : State) (x : Reg) : (s.loadRegs x).index = s.index := rfl
@[simp] theorem State.loadRegs_pc (s : State) (x : Reg) : (s.loadRegs x).pc = s.pc := rfl
@[simp] theorem State.loadRegs_stack (s : State) (x : Reg) : (s.loadRegs x).stack = s.stack := rfl
@[simp] theorem State.loadRegs_sp (s : State) (x : Reg) : (s.loadRegs x).sp = s.sp := rfl
@[simp] theorem State.loadRegs_dt (s : State) (x : Reg) : (s.loadRegs x).dt = s.dt := rfl
@[simp] theorem State.loadRegs_st (s : State) (x : Reg) : (s.loadRegs x).st = s.st := rfl
@[simp] theorem State.loadRegs_key (s : State) (x : Reg) : (s.loadRegs x).key = s.key := rfl
@[simp] theorem State.loadRegs_disp (s : State) (x : Reg) : (s.loadRegs x).disp = s.disp := rfl
@[simp] theorem State.loadRegs_dirty (s : State) (x : Reg) : (s.loadRegs x).dirty = s.dirty := rfl
@[simp] theorem State.loadRegs_halt (s : State) (x : Reg) : (s.loadRegs x).halt = s.halt := rfl
@[simp] theorem State.loadRegs_cfg (s : State) (x : Reg) : (s.loadRegs x).cfg = s.cfg := rfl
@[simp] theorem State.loadRegs_draws (s : State) (x : Reg) : (s.loadRegs x).draws = s.draws := rfl
@[simp] theorem State.loadRegs_calls (s : State) (x : Reg) : (s.loadRegs x).calls = s.calls := rfl
@[simp] theorem State.loadRegs_hostTurn (s : State) (x : Reg) : (s.loadRegs x).hostTurn = s.hostTurn := rfl
@[simp] theorem State.loadRegs_reply (s : State) (x : Reg) : (s.loadRegs x).reply = s.reply := rfl
@[simp] theorem State.loadRegs_unknowns (s : State) (x : Reg) : (s.loadRegs x).unknowns = s.unknowns := rfl
@[simp] theorem State.loadRegs_phase (s : State) (x : Reg) : (s.loadRegs x).phase = s.phase := rfl

/-! ## takeFatal -/

@[simp] theorem takeFatal_mem (s : State) (e : FatalError) : (takeFatal s e).mem = s.mem := rfl
@[simp] theorem takeFatal_v (s : State) (e : FatalError) : (takeFatal s e).v = s.v := rfl
@[simp] theorem takeFatal_index (s : State) (e : FatalError) : (takeFatal s e).index = s.index := rfl
@[simp] theorem takeFatal_pc (s : State) (e : FatalError) : (takeFatal s e).pc = s.pc := rfl
@[simp] theorem takeFatal_stack (s : State) (e : FatalError) : (takeFatal s e).stack = s.stack := rfl
@[simp] theorem takeFatal_sp (s : State) (e : FatalError) : (takeFatal s e).sp = s.sp := rfl
@[simp] theorem takeFatal_dt (s : State) (e : FatalError) : (takeFatal s e).dt = s.dt := rfl
@[simp] theorem takeFatal_st (s : State) (e : FatalError) : (takeFatal s e).st = s.st := rfl
@[simp] theorem takeFatal_key (s : State) (e : FatalError) : (takeFatal s e).key = s.key := rfl
@[simp] theorem takeFatal_disp (s : State) (e : FatalError) : (takeFatal s e).disp = s.disp := rfl
@[simp] theorem takeFatal_dirty (s : State) (e : FatalError) : (takeFatal s e).dirty = s.dirty := rfl
@[simp] theorem takeFatal_halt (s : State) (e : FatalError) : (takeFatal s e).halt = some e := rfl
@[simp] theorem takeFatal_cfg (s : State) (e : FatalError) : (takeFatal s e).cfg = s.cfg := rfl
@[simp] theorem takeFatal_draws (s : State) (e : FatalError) : (takeFatal s e).draws = s.draws := rfl
@[simp] theorem takeFatal_calls (s : State) (e : FatalError) : (takeFatal s e).calls = s.calls := rfl
@[simp] theorem takeFatal_hostTurn (s : State) (e : FatalError) : (takeFatal s e).hostTurn = s.hostTurn := rfl
@[simp] theorem takeFatal_reply (s : State) (e : FatalError) : (takeFatal s e).reply = s.reply := rfl
@[simp] theorem takeFatal_unknowns (s : State) (e : FatalError) : (takeFatal s e).unknowns = s.unknowns := rfl
@[simp] theorem takeFatal_phase (s : State) (e : FatalError) : (takeFatal s e).phase = s.phase := rfl

/-! ## advance -/

@[simp] theorem advance_mem (s : State) : (advance s).mem = s.mem := rfl
@[simp] theorem advance_v (s : State) : (advance s).v = s.v := rfl
@[simp] theorem advance_index (s : State) : (advance s).index = s.index := rfl
@[simp] theorem advance_pc (s : State) : (advance s).pc = s.pc + 2 := rfl
@[simp] theorem advance_stack (s : State) : (advance s).stack = s.stack := rfl
@[simp] theorem advance_sp (s : State) : (advance s).sp = s.sp := rfl
@[simp] theorem advance_dt (s : State) : (advance s).dt = s.dt := rfl
@[simp] theorem advance_st (s : State) : (advance s).st = s.st := rfl
@[simp] theorem advance_key (s : State) : (advance s).key = s.key := rfl
@[simp] theorem advance_disp (s : State) : (advance s).disp = s.disp := rfl
@[simp] theorem advance_dirty (s : State) : (advance s).dirty = s.dirty := rfl
@[simp] theorem advance_halt (s : State) : (advance s).halt = s.halt := rfl
@[simp] theorem advance_cfg (s : State) : (advance s).cfg = s.cfg := rfl
@[simp] theorem advance_draws (s : State) : (advance s).draws = s.draws := rfl
@[simp] theorem advance_calls (s : State) : (advance s).calls = s.calls := rfl
@[simp] theorem advance_hostTurn (s : State) : (advance s).hostTurn = s.hostTurn := rfl
@[simp] theorem advance_reply (s : State) : (advance s).reply = s.reply := rfl
@[simp] theorem advance_unknowns (s : State) : (advance s).unknowns = s.unknowns := rfl
@[simp] theorem advance_phase (s : State) : (advance s).phase = .running := rfl

/-! ## concludeCycle -/

@[simp] theorem concludeCycle_mem (s : State) : (concludeCycle s).mem = s.mem := rfl
@[simp] theorem concludeCycle_v (s : State) : (concludeCycle s).v = s.v := rfl
@[simp] theorem concludeCycle_index (s : State) : (concludeCycle s).index = s.index := rfl
@[simp] theorem concludeCycle_pc (s : State) : (concludeCycle s).pc = s.pc := rfl
@[simp] theorem concludeCycle_stack (s : State) : (concludeCycle s).stack = s.stack := rfl
@[simp] theorem concludeCycle_sp (s : State) : (concludeCycle s).sp = s.sp := rfl
@[simp] theorem concludeCycle_dt (s : State) : (concludeCycle s).dt = s.dt := rfl
@[simp] theorem concludeCycle_st (s : State) : (concludeCycle s).st = s.st := rfl
@[simp] theorem concludeCycle_key (s : State) : (concludeCycle s).key = s.key := rfl
@[simp] theorem concludeCycle_disp (s : State) : (concludeCycle s).disp = s.disp := rfl
@[simp] theorem concludeCycle_dirty (s : State) : (concludeCycle s).dirty = s.dirty := rfl
@[simp] theorem concludeCycle_halt (s : State) : (concludeCycle s).halt = s.halt := rfl
@[simp] theorem concludeCycle_cfg (s : State) : (concludeCycle s).cfg = s.cfg := rfl
@[simp] theorem concludeCycle_draws (s : State) : (concludeCycle s).draws = s.draws := rfl
@[simp] theorem concludeCycle_calls (s : State) : (concludeCycle s).calls = s.calls := rfl
@[simp] theorem concludeCycle_hostTurn (s : State) : (concludeCycle s).hostTurn = s.hostTurn := rfl
@[simp] theorem concludeCycle_unknowns (s : State) : (concludeCycle s).unknowns = s.unknowns := rfl
@[simp] theorem concludeCycle_phase (s : State) : (concludeCycle s).phase = s.phase := rfl

/-! ## reportUnknown -/

@[simp] theorem reportUnknown_mem (op addr : Word) (s : State) : (reportUnknown op addr s).mem = s.mem := rfl
@[simp] theorem reportUnknown_v (op addr : Word) (s : State) : (reportUnknown op addr s).v = s.v := rfl
@[simp] theorem reportUnknown_index (op addr : Word) (s : State) : (reportUnknown op addr s).index = s.index := rfl
@[simp] theorem reportUnknown_pc (op addr : Word) (s : State) : (reportUnknown op addr s).pc = s.pc := rfl
@[simp] theorem reportUnknown_stack (op addr : Word) (s : State) : (reportUnknown op addr s).stack = s.stack := rfl
@[simp] theorem reportUnknown_sp (op addr : Word) (s : State) : (reportUnknown op addr s).sp = s.sp := rfl
@[simp] theorem reportUnknown_dt (op addr : Word) (s : State) : (reportUnknown op addr s).dt = s.dt := rfl
@[simp] theorem reportUnknown_st (op addr : Word) (s : State) : (reportUnknown op addr s).st = s.st := rfl
@[simp] theorem reportUnknown_key (op addr : Word) (s : State) : (reportUnknown op addr s).key = s.key := rfl
@[simp] theorem reportUnknown_disp (op addr : Word) (s : State) : (reportUnknown op addr s).disp = s.disp := rfl
@[simp] theorem reportUnknown_dirty (op addr : Word) (s : State) : (reportUnknown op addr s).dirty = s.dirty := rfl
@[simp] theorem reportUnknown_halt (op addr : Word) (s : State) : (reportUnknown op addr s).halt = s.halt := rfl
@[simp] theorem reportUnknown_cfg (op addr : Word) (s : State) : (reportUnknown op addr s).cfg = s.cfg := rfl
@[simp] theorem reportUnknown_draws (op addr : Word) (s : State) : (reportUnknown op addr s).draws = s.draws := rfl
@[simp] theorem reportUnknown_calls (op addr : Word) (s : State) : (reportUnknown op addr s).calls = s.calls := rfl
@[simp] theorem reportUnknown_hostTurn (op addr : Word) (s : State) : (reportUnknown op addr s).hostTurn = s.hostTurn := rfl
@[simp] theorem reportUnknown_reply (op addr : Word) (s : State) : (reportUnknown op addr s).reply = .unknown ⟨op, addr⟩ := rfl
@[simp] theorem reportUnknown_unknowns (op addr : Word) (s : State) : (reportUnknown op addr s).unknowns = ⟨op, addr⟩ :: s.unknowns := rfl
@[simp] theorem reportUnknown_phase (op addr : Word) (s : State) : (reportUnknown op addr s).phase = s.phase := rfl

/-! ## State.skipIf -/

@[simp] theorem State.skipIf_mem (s : State) (c : Bool) : (s.skipIf c).mem = s.mem := by cases c <;> rfl
@[simp] theorem State.skipIf_v (s : State) (c : Bool) : (s.skipIf c).v = s.v := by cases c <;> rfl
@[simp] theorem State.skipIf_index (s : State) (c : Bool) : (s.skipIf c).index = s.index := by cases c <;> rfl
@[simp] theorem State.skipIf_pc (s : State) (c : Bool) : (s.skipIf c).pc = if c then s.pc + 2 else s.pc := by
  cases c <;> rfl
@[simp] theorem State.skipIf_stack (s : State) (c : Bool) : (s.skipIf c).stack = s.stack := by cases c <;> rfl
@[simp] theorem State.skipIf_sp (s : State) (c : Bool) : (s.skipIf c).sp = s.sp := by cases c <;> rfl
@[simp] theorem State.skipIf_dt (s : State) (c : Bool) : (s.skipIf c).dt = s.dt := by cases c <;> rfl
@[simp] theorem State.skipIf_st (s : State) (c : Bool) : (s.skipIf c).st = s.st := by cases c <;> rfl
@[simp] theorem State.skipIf_key (s : State) (c : Bool) : (s.skipIf c).key = s.key := by cases c <;> rfl
@[simp] theorem State.skipIf_disp (s : State) (c : Bool) : (s.skipIf c).disp = s.disp := by cases c <;> rfl
@[simp] theorem State.skipIf_dirty (s : State) (c : Bool) : (s.skipIf c).dirty = s.dirty := by cases c <;> rfl
@[simp] theorem State.skipIf_halt (s : State) (c : Bool) : (s.skipIf c).halt = s.halt := by cases c <;> rfl
@[simp] theorem State.skipIf_cfg (s : State) (c : Bool) : (s.skipIf c).cfg = s.cfg := by cases c <;> rfl
@[simp] theorem State.skipIf_draws (s : State) (c : Bool) : (s.skipIf c).draws = s.draws := by cases c <;> rfl
@[simp] theorem State.skipIf_calls (s : State) (c : Bool) : (s.skipIf c).calls = s.calls := by cases c <;> rfl
@[simp] theorem State.skipIf_hostTurn (s : State) (c : Bool) : (s.skipIf c).hostTurn = s.hostTurn := by cases c <;> rfl
@[simp] theorem State.skipIf_reply (s : State) (c : Bool) : (s.skipIf c).reply = s.reply := by cases c <;> rfl
@[simp] theorem State.skipIf_unknowns (s : State) (c : Bool) : (s.skipIf c).unknowns = s.unknowns := by cases c <;> rfl
@[simp] theorem State.skipIf_phase (s : State) (c : Bool) : (s.skipIf c).phase = s.phase := by cases c <;> rfl

/-! ## State.takeCall -/

@[simp] theorem State.takeCall_mem (s : State) : s.takeCall.mem = s.mem := by
  unfold State.takeCall
  split <;> rfl
@[simp] theorem State.takeCall_v (s : State) : s.takeCall.v = s.v := by
  unfold State.takeCall
  split <;> rfl
@[simp] theorem State.takeCall_index (s : State) : s.takeCall.index = s.index := by
  unfold State.takeCall
  split <;> rfl
@[simp] theorem State.takeCall_pc (s : State) : s.takeCall.pc = s.pc := by
  unfold State.takeCall
  split <;> rfl
@[simp] theorem State.takeCall_stack (s : State) : s.takeCall.stack = s.stack := by
  unfold State.takeCall
  split <;> rfl
@[simp] theorem State.takeCall_sp (s : State) : s.takeCall.sp = s.sp := by
  unfold State.takeCall
  split <;> rfl
@[simp] theorem State.takeCall_dt (s : State) : s.takeCall.dt = s.dt := by
  unfold State.takeCall
  split <;> rfl
@[simp] theorem State.takeCall_st (s : State) : s.takeCall.st = s.st := by
  unfold State.takeCall
  split <;> rfl
@[simp] theorem State.takeCall_key (s : State) : s.takeCall.key = s.key := by
  unfold State.takeCall
  split <;> rfl
@[simp] theorem State.takeCall_disp (s : State) : s.takeCall.disp = s.disp := by
  unfold State.takeCall
  split <;> rfl
@[simp] theorem State.takeCall_dirty (s : State) : s.takeCall.dirty = s.dirty := by
  unfold State.takeCall
  split <;> rfl
@[simp] theorem State.takeCall_halt (s : State) : s.takeCall.halt = s.halt := by
  unfold State.takeCall
  split <;> rfl
@[simp] theorem State.takeCall_cfg (s : State) : s.takeCall.cfg = s.cfg := by
  unfold State.takeCall
  split <;> rfl
@[simp] theorem State.takeCall_draws (s : State) : s.takeCall.draws = s.draws := by
  unfold State.takeCall
  split <;> rfl
@[simp] theorem State.takeCall_reply (s : State) : s.takeCall.reply = s.reply := by
  unfold State.takeCall
  split <;> rfl
@[simp] theorem State.takeCall_unknowns (s : State) : s.takeCall.unknowns = s.unknowns := by
  unfold State.takeCall
  split <;> rfl
@[simp] theorem State.takeCall_phase (s : State) : s.takeCall.phase = s.phase := by
  unfold State.takeCall
  split <;> rfl

theorem State.takeCall_none {s : State} (h : s.calls = []) : s.takeCall = { s with hostTurn := s.hostTurn + 1 } := by
  simp [State.takeCall, h]
theorem State.takeCall_some {s : State} {c : Call} {rest : List Call} (h : s.calls = c :: rest) :
    s.takeCall = { s with calls := rest } := by
  simp [State.takeCall, h]

end Sys2Proof.Machine
end

