-- ==== Sys2Proof/Laws/Memory.lean ====
section
/-! SUPPORT. The laws of memory: a read after a write, the canonical form kept by every write, and that canonical
memories which read the same are equal. -/

namespace Sys2Proof.Machine

variable {font : FontTable}

/-! ## Reading after one write -/

theorem Memory.read_write_other {a a' : Nat} (h : a' ≠ a) (b : Byte) :
    ∀ m : Memory, Memory.read font (Memory.write font m a b) a' = Memory.read font m a'
  | [] => by
    by_cases hb : b = Memory.unlisted font a <;> simp [Memory.write, Memory.read, hb, Ne.symm h]
  | (k, c) :: rest => by
    have ih := Memory.read_write_other h b rest
    by_cases hk : k < a
    · simp [Memory.write, Memory.read, hk, ih]
    · rw [Memory.write, if_neg hk]
      by_cases hb : b = Memory.unlisted font a <;> by_cases he : k = a <;>
        simp [Memory.read, hb, he, Ne.symm h]

/-- In canonical memory from `low` on, an address below `low` is not listed. -/
theorem Memory.read_below : ∀ {m : Memory} {low a : Nat}, Memory.wfFrom font low m = true → a < low →
    Memory.read font m a = Memory.unlisted font a
  | [], _, _, _, _ => rfl
  | (k, c) :: rest, low, a, hw, ha => by
    simp only [Memory.wfFrom, Bool.and_eq_true, decide_eq_true_eq] at hw
    obtain ⟨⟨⟨hlow, -⟩, -⟩, hrest⟩ := hw
    have hne : ¬ k = a := by omega
    simpa [Memory.read, hne] using Memory.read_below hrest (a := a) (by omega)

theorem Memory.read_write_same (a : Nat) (b : Byte) : ∀ {m : Memory} {low : Nat}, Memory.wfFrom font low m = true →
    Memory.read font (Memory.write font m a b) a = b
  | [], _, _ => by
    by_cases hb : b = Memory.unlisted font a <;> simp [Memory.write, Memory.read, hb]
  | (k, c) :: rest, low, hw => by
    simp only [Memory.wfFrom, Bool.and_eq_true, decide_eq_true_eq] at hw
    obtain ⟨-, hrest⟩ := hw
    by_cases hk : k < a
    · have hne : ¬ k = a := by omega
      simpa [Memory.write, Memory.read, hk, hne] using Memory.read_write_same a b hrest
    · by_cases hb : b = Memory.unlisted font a
      · by_cases he : k = a
        · subst he
          simpa [Memory.write, hb] using Memory.read_below hrest (Nat.lt_succ_self k)
        · have : Memory.read font rest a = Memory.unlisted font a := Memory.read_below hrest (by omega)
          simp [Memory.write, Memory.read, hk, hb, he, this]
      · simp [Memory.write, Memory.read, hk, hb]

/-! ## The canonical form -/

theorem Memory.wfFrom_mono : ∀ {m : Memory} {low low' : Nat}, Memory.wfFrom font low m = true → low' ≤ low →
    Memory.wfFrom font low' m = true
  | [], _, _, _, _ => rfl
  | (k, c) :: rest, low, low', hw, hl => by
    simp only [Memory.wfFrom, Bool.and_eq_true, decide_eq_true_eq] at hw ⊢
    exact ⟨⟨⟨by omega, hw.1.1.2⟩, hw.1.2⟩, hw.2⟩

theorem Memory.wfFrom_write {a : Nat} (ha : a < 4096) (b : Byte) : ∀ {m : Memory} {low : Nat},
    Memory.wfFrom font low m = true → low ≤ a → Memory.wfFrom font low (Memory.write font m a b) = true
  | [], low, _, hl => by
    by_cases hb : b = Memory.unlisted font a <;> simp [Memory.write, Memory.wfFrom, hb, hl, ha]
  | (k, c) :: rest, low, hw, hl => by
    have hw' := hw
    simp only [Memory.wfFrom, Bool.and_eq_true, decide_eq_true_eq] at hw
    obtain ⟨⟨⟨hlow, hk4⟩, hc⟩, hrest⟩ := hw
    by_cases hk : k < a
    · rw [Memory.write, if_pos hk]
      simp only [Memory.wfFrom, Bool.and_eq_true, decide_eq_true_eq]
      exact ⟨⟨⟨hlow, hk4⟩, hc⟩, Memory.wfFrom_write ha b hrest (by omega)⟩
    · have habove : Memory.wfFrom font (a + 1) (if k = a then rest else (k, c) :: rest) = true := by
        split
        · next he => subst he; exact hrest
        · next he =>
          simp only [Memory.wfFrom, Bool.and_eq_true, decide_eq_true_eq]
          exact ⟨⟨⟨by omega, hk4⟩, hc⟩, hrest⟩
      by_cases hb : b = Memory.unlisted font a
      · simpa [Memory.write, hk, hb] using Memory.wfFrom_mono habove (by omega)
      · simpa [Memory.write, Memory.wfFrom, hk, hb, hl, ha] using habove

/-- A write inside memory keeps the canonical form. -/
theorem Memory.wf_write {m : Memory} {a : Nat} (hw : Memory.wf font m = true) (ha : a < 4096) (b : Byte) :
    Memory.wf font (Memory.write font m a b) = true :=
  Memory.wfFrom_write ha b hw (Nat.zero_le a)

/-- A span written inside memory keeps the canonical form. -/
theorem Memory.wf_writeSpan : ∀ {bs : List Byte} {m : Memory} {a : Nat}, Memory.wf font m = true →
    a + bs.length ≤ 4096 → Memory.wf font (Memory.writeSpan font m a bs) = true
  | [], _, _, hw, _ => hw
  | b :: rest, m, a, hw, ha => by
    simp only [List.length_cons] at ha
    rw [Memory.writeSpan]
    exact Memory.wf_writeSpan (Memory.wf_write hw (by omega) b) (by omega)

/-! ## Reading after a span was written -/

theorem Memory.read_writeSpan_outside : ∀ {bs : List Byte} {m : Memory} {a a' : Nat},
    (a' < a ∨ a + bs.length ≤ a') → Memory.read font (Memory.writeSpan font m a bs) a' = Memory.read font m a'
  | [], _, _, _, _ => rfl
  | b :: rest, m, a, a', h => by
    simp only [List.length_cons] at h
    rw [Memory.writeSpan, Memory.read_writeSpan_outside (by omega), Memory.read_write_other (by omega)]

theorem Memory.read_writeSpan_inside : ∀ {bs : List Byte} {m : Memory} {a : Nat}, Memory.wf font m = true →
    a + bs.length ≤ 4096 → ∀ (k : Nat) (hk : k < bs.length),
      Memory.read font (Memory.writeSpan font m a bs) (a + k) = bs[k]
  | [], _, _, _, _, k, hk => by simp at hk
  | b :: rest, m, a, hw, ha, k, hk => by
    simp only [List.length_cons] at ha hk
    cases k with
    | zero =>
      rw [Memory.writeSpan, Memory.read_writeSpan_outside (by omega)]
      exact Memory.read_write_same a b hw
    | succ j =>
      have := Memory.read_writeSpan_inside (Memory.wf_write hw (a := a) (by omega) b) (a := a + 1) (bs := rest)
        (by omega) j (by omega)
      rw [show a + (j + 1) = a + 1 + j by omega]
      simpa [Memory.writeSpan] using this

/-! ## Equal memories are equal data -/

theorem Memory.eq_of_read_eq : ∀ {m m' : Memory} {low low' : Nat}, Memory.wfFrom font low m = true →
    Memory.wfFrom font low' m' = true → (∀ a, Memory.read font m a = Memory.read font m' a) → m = m'
  | [], [], _, _, _, _, _ => rfl
  | [], (k, c) :: rest, _, _, _, hw', h => by
    simp only [Memory.wfFrom, Bool.and_eq_true, bne_iff_ne] at hw'
    exact absurd (by simpa [Memory.read] using (h k).symm) hw'.1.2
  | (k, c) :: rest, [], _, _, hw, _, h => by
    simp only [Memory.wfFrom, Bool.and_eq_true, bne_iff_ne] at hw
    exact absurd (by simpa [Memory.read] using h k) hw.1.2
  | (k, c) :: rest, (k', c') :: rest', low, low', hw, hw', h => by
    simp only [Memory.wfFrom, Bool.and_eq_true, bne_iff_ne, decide_eq_true_eq] at hw hw'
    obtain ⟨⟨⟨-, -⟩, hc⟩, hrest⟩ := hw
    obtain ⟨⟨⟨-, -⟩, hc'⟩, hrest'⟩ := hw'
    have hk : k = k' := by
      rcases Nat.lt_trichotomy k k' with hlt | heq | hgt
      · have h1 := h k
        have hne : ¬ k' = k := by omega
        rw [Memory.read, Memory.read, if_pos rfl, if_neg hne, Memory.read_below hrest' (by omega)] at h1
        exact absurd h1 hc
      · exact heq
      · have h1 := h k'
        have hne : ¬ k = k' := by omega
        rw [Memory.read, Memory.read, if_pos rfl, if_neg hne, Memory.read_below hrest (by omega)] at h1
        exact absurd h1.symm hc'
    subst hk
    have hcc : c = c' := by simpa [Memory.read] using h k
    subst hcc
    have hr : rest = rest' := Memory.eq_of_read_eq hrest hrest' fun a => by
      by_cases ha : k = a
      · subst ha
        rw [Memory.read_below hrest (by omega), Memory.read_below hrest' (by omega)]
      · simpa [Memory.read, ha] using h a
    rw [hr]

/-! ## The same through the state -/

@[simp] theorem State.readByte_setV (s : State) (x : Reg) (b : Byte) (a : Nat) :
    (s.setV x b).readByte a = s.readByte a := rfl
@[simp] theorem State.readByte_setPc (s : State) (p : Word) (a : Nat) : (s.setPc p).readByte a = s.readByte a := rfl
@[simp] theorem State.readByte_setIndex (s : State) (p : Word) (a : Nat) :
    (s.setIndex p).readByte a = s.readByte a := rfl
@[simp] theorem State.readByte_setDt (s : State) (b : Byte) (a : Nat) : (s.setDt b).readByte a = s.readByte a := rfl
@[simp] theorem State.readByte_setSt (s : State) (b : Byte) (a : Nat) : (s.setSt b).readByte a = s.readByte a := rfl
@[simp] theorem State.readByte_setDisp (s : State) (d : Display) (a : Nat) :
    (s.setDisp d).readByte a = s.readByte a := rfl
@[simp] theorem State.readByte_countDraw (s : State) (a : Nat) : s.countDraw.readByte a = s.readByte a := rfl
@[simp] theorem State.readByte_loadRegs (s : State) (x : Reg) (a : Nat) : (s.loadRegs x).readByte a = s.readByte a := rfl
@[simp] theorem State.readByte_skipIf (s : State) (c : Bool) (a : Nat) : (s.skipIf c).readByte a = s.readByte a := by
  cases c <;> rfl
@[simp] theorem State.readByte_takeFatal (s : State) (e : FatalError) (a : Nat) :
    (takeFatal s e).readByte a = s.readByte a := rfl
@[simp] theorem State.readByte_advance (s : State) (a : Nat) : (advance s).readByte a = s.readByte a := rfl
@[simp] theorem State.readByte_concludeCycle (s : State) (a : Nat) : (concludeCycle s).readByte a = s.readByte a := rfl

theorem State.readByte_writeBytes_outside {s : State} {a a' : Nat} {bs : List Byte}
    (h : a' < a ∨ a + bs.length ≤ a') : (s.writeBytes a bs).readByte a' = s.readByte a' :=
  Memory.read_writeSpan_outside h

theorem State.readByte_writeBytes_inside {s : State} {a : Nat} {bs : List Byte}
    (hw : Memory.wf s.cfg.fontTable s.mem = true) (ha : a + bs.length ≤ 4096) (k : Nat) (hk : k < bs.length) :
    (s.writeBytes a bs).readByte (a + k) = bs[k] :=
  Memory.read_writeSpan_inside hw ha k hk

/-- The reset memory lists nothing, so it has the canonical form. -/
theorem State.reset_mem_wf : Memory.wf State.reset.cfg.fontTable State.reset.mem = true := rfl

end Sys2Proof.Machine
end

