-- ==== Sys2Proof/Laws/Ops.lean ====
section
/-! SUPPORT. One law per shared operation, which says once everything the operation can do; and the frame of every
update of the state. -/

namespace Sys2Proof.Machine

/-! ## Frames -/

theorem HostSideUnchanged.refl (s : State) : HostSideUnchanged s s := ⟨rfl, rfl, rfl, rfl, rfl, rfl⟩

theorem HostSideUnchanged.trans {s t u : State} (h₁ : HostSideUnchanged s t) (h₂ : HostSideUnchanged t u) :
    HostSideUnchanged s u := by
  obtain ⟨a₁, b₁, c₁, d₁, e₁, f₁⟩ := h₁
  obtain ⟨a₂, b₂, c₂, d₂, e₂, f₂⟩ := h₂
  exact ⟨a₂.trans a₁, b₂.trans b₁, c₂.trans c₁, d₂.trans d₁, e₂.trans e₁, f₂.trans f₁⟩

theorem Component.Same.trans {s t u : State} : ∀ {c : Component}, c.Same s t → c.Same t u → c.Same s u
  | .mem, h₁, h₂ => fun a => (h₂ a).trans (h₁ a)
  | .v, h₁, h₂ | .index, h₁, h₂ | .pc, h₁, h₂ | .stack, h₁, h₂ | .sp, h₁, h₂ | .dt, h₁, h₂ | .st, h₁, h₂
  | .key, h₁, h₂ | .disp, h₁, h₂ | .dirty, h₁, h₂ | .halt, h₁, h₂ | .draws, h₁, h₂ => Eq.trans h₂ h₁

theorem Component.Same.refl (s : State) : ∀ c : Component, c.Same s s
  | .mem => fun _ => rfl
  | .v | .index | .pc | .stack | .sp | .dt | .st | .key | .disp | .dirty | .halt | .draws => rfl

theorem Frame.refl (cs : List Component) (s : State) : Frame cs s s :=
  ⟨fun c _ => Component.Same.refl s c, HostSideUnchanged.refl s⟩

theorem Frame.mono {cs ds : List Component} {s t : State} (h : Frame cs s t) (hsub : ∀ c ∈ cs, c ∈ ds) :
    Frame ds s t :=
  ⟨fun c hc => h.1 c fun hcs => hc (hsub c hcs), h.2⟩

/-- Two updates in a row change at most what each of them changes. -/
theorem Frame.trans {cs ds : List Component} {s t u : State} (h₁ : Frame cs s t) (h₂ : Frame ds t u) :
    Frame (cs ++ ds) s u :=
  ⟨fun c hc => (h₁.1 c fun h => hc (List.mem_append_left _ h)).trans (h₂.1 c fun h => hc (List.mem_append_right _ h)),
    h₁.2.trans h₂.2⟩

theorem frame_setV (s : State) (x : Reg) (b : Byte) : Frame [.v] s (s.setV x b) :=
  ⟨fun c hc => by cases c <;> simp_all [Component.Same], rfl, rfl, rfl, rfl, rfl, rfl⟩

theorem frame_setIndex (s : State) (a : Word) : Frame [.index] s (s.setIndex a) :=
  ⟨fun c hc => by cases c <;> simp_all [Component.Same], rfl, rfl, rfl, rfl, rfl, rfl⟩

theorem frame_setPc (s : State) (a : Word) : Frame [.pc] s (s.setPc a) :=
  ⟨fun c hc => by cases c <;> simp_all [Component.Same], rfl, rfl, rfl, rfl, rfl, rfl⟩

theorem frame_setDt (s : State) (b : Byte) : Frame [.dt] s (s.setDt b) :=
  ⟨fun c hc => by cases c <;> simp_all [Component.Same], rfl, rfl, rfl, rfl, rfl, rfl⟩

theorem frame_setSt (s : State) (b : Byte) : Frame [.st] s (s.setSt b) :=
  ⟨fun c hc => by cases c <;> simp_all [Component.Same], rfl, rfl, rfl, rfl, rfl, rfl⟩

theorem frame_setDisp (s : State) (d : Display) : Frame [.disp, .dirty] s (s.setDisp d) :=
  ⟨fun c hc => by cases c <;> simp_all [Component.Same], rfl, rfl, rfl, rfl, rfl, rfl⟩

theorem frame_countDraw (s : State) : Frame [.draws] s s.countDraw :=
  ⟨fun c hc => by cases c <;> simp_all [Component.Same], rfl, rfl, rfl, rfl, rfl, rfl⟩

theorem frame_writeBytes (s : State) (a : Nat) (bs : List Byte) : Frame [.mem] s (s.writeBytes a bs) :=
  ⟨fun c hc => by cases c <;> simp_all [Component.Same], rfl, rfl, rfl, rfl, rfl, rfl⟩

theorem frame_loadRegs (s : State) (x : Reg) : Frame [.v] s (s.loadRegs x) :=
  ⟨fun c hc => by cases c <;> simp_all [Component.Same], by simp [HostSideUnchanged]⟩

theorem frame_takeFatal (s : State) (e : FatalError) : Frame [.halt] s (takeFatal s e) :=
  ⟨fun c hc => by cases c <;> simp_all [Component.Same], rfl, rfl, rfl, rfl, rfl, rfl⟩

theorem frame_skipIf (s : State) (c : Bool) : Frame [.pc] s (s.skipIf c) := by
  cases c
  · exact Frame.refl _ s
  · exact frame_setPc s _

theorem frame_setResultAndFlag (s : State) (x : Reg) (r : Byte) (f : Bool) :
    Frame [.v] s (s.setResultAndFlag x r f) :=
  ((frame_setV s x r).trans (frame_setV _ vf _)).mono (by simp)

/-! ## Registers -/

/-- Writing a register and reading any register (R23). -/
@[simp] theorem State.reg_setV (s : State) (x z : Reg) (b : Byte) :
    (s.setV x b).reg z = if z = x then b else s.reg z := by
  unfold State.reg
  by_cases h : z = x
  · subst h; simp
  · have : x.val ≠ z.val := fun e => h (Fin.ext e.symm)
    simp [h, Vector.getElem_set_ne, this]

@[simp] theorem State.reg_setPc (s : State) (a : Word) (z : Reg) : (s.setPc a).reg z = s.reg z := rfl
@[simp] theorem State.reg_setIndex (s : State) (a : Word) (z : Reg) : (s.setIndex a).reg z = s.reg z := rfl
@[simp] theorem State.reg_setDt (s : State) (b : Byte) (z : Reg) : (s.setDt b).reg z = s.reg z := rfl
@[simp] theorem State.reg_setSt (s : State) (b : Byte) (z : Reg) : (s.setSt b).reg z = s.reg z := rfl
@[simp] theorem State.reg_setDisp (s : State) (d : Display) (z : Reg) : (s.setDisp d).reg z = s.reg z := rfl
@[simp] theorem State.reg_countDraw (s : State) (z : Reg) : s.countDraw.reg z = s.reg z := rfl
@[simp] theorem State.reg_writeBytes (s : State) (a : Nat) (bs : List Byte) (z : Reg) :
    (s.writeBytes a bs).reg z = s.reg z := rfl
@[simp] theorem State.reg_takeFatal (s : State) (e : FatalError) (z : Reg) : (takeFatal s e).reg z = s.reg z := rfl
@[simp] theorem State.reg_advance (s : State) (z : Reg) : (advance s).reg z = s.reg z := rfl
@[simp] theorem State.reg_skipIf (s : State) (c : Bool) (z : Reg) : (s.skipIf c).reg z = s.reg z := by cases c <;> rfl

/-- The flag is what VF holds after a result and a flag are written, whatever the destination (R171). -/
@[simp] theorem State.reg_setResultAndFlag (s : State) (x z : Reg) (r : Byte) (f : Bool) :
    (s.setResultAndFlag x r f).reg z = if z = vf then flagByte f else if z = x then r else s.reg z := by
  rw [State.setResultAndFlag, State.setFlag, State.reg_setV, State.reg_setV]

/-- After a block load: the bytes at I up to register x, the old values above it. -/
@[simp] theorem State.reg_loadRegs (s : State) (x z : Reg) :
    (s.loadRegs x).reg z = if z ≤ x then s.readByte (s.index.toNat + z.val) else s.reg z := by
  simp [State.loadRegs, State.reg]

theorem regsUnchanged_setV (s : State) (x : Reg) (b : Byte) : RegsUnchangedExcept [x] s (s.setV x b) := by
  intro z hz
  rw [State.reg_setV, if_neg (by simpa using hz)]

theorem regsUnchanged_setResultAndFlag (s : State) (x : Reg) (r : Byte) (f : Bool) :
    RegsUnchangedExcept [x, vf] s (s.setResultAndFlag x r f) := by
  intro z hz
  simp only [List.mem_cons, List.not_mem_nil, or_false, not_or] at hz
  rw [State.reg_setResultAndFlag, if_neg hz.2, if_neg hz.1]

theorem State.regsUpTo_length (s : State) (x : Reg) : (s.regsUpTo x).length = x.val + 1 := by
  simp only [State.regsUpTo, List.length_take, Vector.length_toList]
  omega

theorem State.regsUpTo_getElem (s : State) (x k : Reg) (hk : k ≤ x) :
    (s.regsUpTo x)[k.val]'(by rw [State.regsUpTo_length]; exact Nat.lt_succ_of_le hk) = s.reg k := by
  simp [State.regsUpTo, State.reg]

/-! ## Flags and digits -/

/-- VF as a number is 1 or 0. -/
@[simp] theorem flagByte_toNat (f : Bool) : (flagByte f).toNat = if f then 1 else 0 := by cases f <;> rfl

/-- The bit a right shift loses is the remainder by 2. -/
theorem shiftedOutRight_toNat (b : Byte) : (if shiftedOutRight b then 1 else 0) = b.toNat % 2 := by
  rw [shiftedOutRight, BitVec.getLsbD, Nat.testBit_zero]
  rcases Nat.mod_two_eq_zero_or_one b.toNat with h | h <;> simp [h]

/-- The bit a left shift loses is the quotient by 128. -/
theorem shiftedOutLeft_toNat (b : Byte) : (if shiftedOutLeft b then 1 else 0) = b.toNat / 128 := by
  have h := b.isLt
  rw [shiftedOutLeft, BitVec.getLsbD, Nat.testBit_eq_decide_div_mod_eq]
  simp only [decide_eq_true_eq]
  split <;> omega

/-- The glyph address is 5 times the low nibble (R56). -/
theorem glyphAddress_toNat (b : Byte) : (glyphAddress b).toNat = 5 * (b.toNat % 16) := by
  have h : (b &&& 0x0F).toNat = b.toNat % 16 := by
    rw [BitVec.toNat_and]
    exact Nat.and_two_pow_sub_one_eq_mod b.toNat 4
  rw [glyphAddress, BitVec.toNat_mul, BitVec.toNat_setWidth, h, show (5 : Word).toNat = 5 from rfl]
  omega

/-! ## Call stack -/

/-- A push with room: the slot SP holds the address, SP is one more, and nothing else changes. -/
theorem State.push_spec (s : State) (a : Word) (h : s.sp.val < 16) :
    ∃ t, s.push a = some t ∧ t.stack[s.sp.val] = a ∧ t.sp.val = s.sp.val + 1 ∧
      (∀ k : Fin 16, k.val ≠ s.sp.val → t.stack[k] = s.stack[k]) ∧ Frame [.sp, .stack] s t := by
  refine ⟨{ s with stack := s.stack.set s.sp.val a, sp := ⟨s.sp.val + 1, by omega⟩ }, dif_pos h,
    by simp, rfl, fun k hk => ?_, fun c hc => ?_, rfl, rfl, rfl, rfl, rfl, rfl⟩
  · simp [Vector.getElem_set_ne, Ne.symm hk]
  · cases c <;> simp_all [Component.Same, State.readByte]

theorem State.push_full (s : State) (a : Word) (h : s.sp.val = 16) : s.push a = none := by
  rw [State.push, dif_neg (by omega)]

/-- A pop with something on the stack: the newest slot's value, SP one less, and nothing else changes. -/
theorem State.pop_spec (s : State) (h : 0 < s.sp.val) :
    ∃ t, s.pop = some (s.stack[s.sp.val - 1], t) ∧ t.sp.val + 1 = s.sp.val ∧ Frame [.sp] s t := by
  refine ⟨{ s with sp := ⟨s.sp.val - 1, by omega⟩ }, dif_neg (by omega), ?_, fun c hc => ?_, rfl, rfl, rfl, rfl, rfl, rfl⟩
  · show s.sp.val - 1 + 1 = s.sp.val
    omega
  · cases c <;> simp_all [Component.Same, State.readByte]

theorem State.pop_empty (s : State) (h : s.sp.val = 0) : s.pop = none := by rw [State.pop, dif_pos h]

/-! ## Checks -/

theorem checkRead_of_inMemory {a n : Nat} (h : InMemory a n) : checkRead a n = none := by
  unfold InMemory at h
  unfold checkRead
  split
  · rfl
  · rw [if_neg (by omega)]

theorem checkRead_of_not_inMemory {a n : Nat} (h : ¬ InMemory a n) :
    checkRead a n = some ⟨.memoryOutOfRange, max a 0x1000⟩ := by
  unfold InMemory at h
  unfold checkRead
  rw [if_neg (by omega), if_pos (by omega)]

theorem checkWrite_of_permitted {s : State} {n : Nat} (h : StorePermitted s n) :
    checkWrite s.cfg.fontWrite s.index.toNat n = none := by
  obtain ⟨hr, hf⟩ := h
  rw [checkWrite, checkRead_of_inMemory (Or.inr hr)]
  simp only [ite_eq_right_iff, reduceCtorEq, imp_false, not_and]
  intro hp
  have := hf hp
  omega

theorem checkWrite_outside {p : FontWritePolicy} {a n : Nat} (h : ¬ InMemory a n) :
    checkWrite p a n = some ⟨.memoryOutOfRange, max a 0x1000⟩ := by
  rw [checkWrite, checkRead_of_not_inMemory h]

theorem checkWrite_font {a n : Nat} (h : InMemory a n) (ha : a ≤ 0x04F) :
    checkWrite .fault a n = some ⟨.readOnlyWrite, a⟩ := by
  rw [checkWrite, checkRead_of_inMemory h]
  simp [ha]

/-- A checked body either takes the check's error and does nothing else, or runs. -/
theorem checked_cases {check : Option FatalError} {s body t : State} (h : checked check s body = .next t) :
    (∃ e, check = some e ∧ t = takeFatal s e) ∨ (check = none ∧ t = body) := by
  cases check with
  | none => exact .inr ⟨rfl, by simpa [checked] using h.symm⟩
  | some e => exact .inl ⟨e, rfl, by simpa [checked] using h.symm⟩

/-! ## Keys -/

theorem keyIndex_of_lt {b : Byte} {k : Fin 16} (h : k.val = b.toNat) : keyIndex b = some k := by
  have hb : b.toNat < 16 := h ▸ k.isLt
  simp only [keyIndex, dif_pos hb, Option.some.injEq]
  exact Fin.ext h.symm

theorem keyIndex_of_gt {b : Byte} (h : 15 < b.toNat) : keyIndex b = none := by
  rw [keyIndex, dif_neg (by omega)]

/-- SetKey and reading any key (R280). -/
@[simp] theorem State.keyDown_setKey (s : State) (k j : Fin 16) (b : Bool) :
    (setKey k b s).keyDown j = if j = k then b else s.keyDown j := by
  unfold State.keyDown setKey
  by_cases h : j = k
  · subst h; simp
  · have : k.val ≠ j.val := fun e => h (Fin.ext e.symm)
    simp [h, Vector.getElem_set_ne, this]

theorem State.lowestKey_none {s : State} : s.lowestKey = none ↔ ∀ k : Fin 16, s.keyDown k = false := by
  simp [State.lowestKey, List.find?_eq_none]

/-- The key found is the lowest pressed one. -/
theorem State.lowestKey_some {s : State} {k : Fin 16} :
    s.lowestKey = some k ↔ s.keyDown k = true ∧ ∀ j : Fin 16, j < k → s.keyDown j = false := by
  simp only [State.lowestKey, List.find?_eq_some_iff_getElem, List.length_finRange, List.getElem_finRange]
  constructor
  · rintro ⟨hk, i, hi, heq, hlow⟩
    refine ⟨hk, fun j hj => ?_⟩
    subst heq
    simpa using hlow j.val hj
  · rintro ⟨hk, hlow⟩
    exact ⟨hk, k.val, k.isLt, by simp, fun j hj => by simpa using hlow ⟨j, by omega⟩ hj⟩

/-! ## The cycle and the step -/

/-- Everything a cycle that answers can have done: repeated the error of a halted core, failed to fetch, run the body of
the decoded word, or reported an unknown word. -/
theorem cycle_cases {s t : State} (h : cycle s = .next t) :
    (∃ e, s.halt = some e ∧ t = { s with reply := .fatal e }) ∨
    (s.halt = none ∧ 0xFFE < s.pc.toNat ∧
      t = concludeCycle (takeFatal { s with phase := .running } ⟨.memoryOutOfRange, max s.pc.toNat 0x1000⟩)) ∨
    (s.halt = none ∧ s.pc.toNat ≤ 0xFFE ∧ ∃ i u, decodeWord (s.readWord s.pc.toNat) = some i ∧
      exec i (advance s) = .next u ∧ t = concludeCycle u) ∨
    (s.halt = none ∧ s.pc.toNat ≤ 0xFFE ∧ decodeWord (s.readWord s.pc.toNat) = none ∧
      t = reportUnknown (s.readWord s.pc.toNat) s.pc (advance s)) := by
  unfold cycle at h
  split at h
  · cases h
  · cases hh : s.halt with
    | some e => exact .inl ⟨e, rfl, by simpa [hh] using h.symm⟩
    | none =>
      by_cases hpc : s.pc.toNat ≤ 0xFFE
      · rw [hh, checkRead_of_inMemory (show InMemory s.pc.toNat 2 from .inr (by omega))] at h
        cases hd : decodeWord (s.readWord s.pc.toNat) with
        | none => exact .inr (.inr (.inr ⟨rfl, hpc, rfl, by simpa [hd] using h.symm⟩))
        | some i =>
          simp only [hd, runBody] at h
          cases he : exec i (advance s) with
          | next u => exact .inr (.inr (.inl ⟨rfl, hpc, i, u, rfl, he, by simpa [he] using h.symm⟩))
          | fault r => simp [he] at h
          | refused r => simp [he] at h
      · have hout : ¬ InMemory s.pc.toNat 2 := by
          unfold InMemory
          omega
        rw [hh, checkRead_of_not_inMemory hout] at h
        exact .inr (.inl ⟨rfl, by omega, by simpa using h.symm⟩)

/-- The word the cycle decodes is the one `Fetches` names. -/
theorem readWord_of_fetches {s : State} {op : Word} (h : Fetches s op) : s.readWord s.pc.toNat = op := by
  obtain ⟨-, -, -, -, hop⟩ := h
  apply BitVec.eq_of_toNat_eq
  rw [hop, State.readWord, wordOfBytes]
  have hlt := (s.readByte (s.pc.toNat + 1)).isLt
  rw [BitVec.toNat_append, Nat.shiftLeft_eq, Nat.mul_comm, ← Nat.two_pow_add_eq_or_of_lt hlt, Nat.mul_comm]

@[simp] theorem State.readByte_takeCall (s : State) (a : Nat) : s.takeCall.readByte a = s.readByte a := by
  simp [State.readByte]

@[simp] theorem State.readWord_takeCall (s : State) (a : Nat) : s.takeCall.readWord a = s.readWord a := by
  simp [State.readWord]

/-- Taking a call changes nothing of the core. -/
theorem core_takeCall (s : State) : CoreUnchangedExcept [] s s.takeCall := fun c _ => by
  cases c <;> simp [Component.Same]

/-- A waiting call is the next one. -/
theorem nextCall_of_waiting {s : State} {c : Call} {rest : List Call} (h : s.calls = c :: rest) : nextCall s = c := by
  simp [nextCall, h]

/-- A step answers the next call, whichever way it is chosen. -/
theorem step_of_nextCall {s : State} {c : Call} (h : nextCall s = c) : step s = answer c s.takeCall := by
  rw [step, nextTransition, h]

end Sys2Proof.Machine
end

