-- ==== Sys2Proof/Laws/Draw.lean ====
section
/-! SUPPORT. What a draw does, once and for all: a draw is a run of pixel flips over the list of cells under set sprite
bits, no cell twice (R202), so each listed cell is flipped once and a collision is an on cell in the list. -/

namespace Sys2Proof.Machine

/-! ## One flip -/

theorem Display.cell_flip (d : Display) (c c' : Fin 64) (r r' : Fin 32) :
    Display.cell (Display.flip d c r) c' r' =
      if c' = c ∧ r' = r then !Display.cell d c r else Display.cell d c' r' := by
  unfold Display.cell Display.flip
  by_cases hr : r' = r
  · subst hr
    by_cases hc : c' = c
    · subst hc; simp
    · have : c.val ≠ c'.val := fun e => hc (Fin.ext e.symm)
      simp [hc, Vector.getElem_set_ne, this]
  · have : r.val ≠ r'.val := fun e => hr (Fin.ext e.symm)
    simp [hr, Vector.getElem_set_ne, this]

/-- Flip one cell; turning it off is a collision. -/
def plot (p : Canvas) (cell : Fin 64 × Fin 32) : Canvas :=
  ⟨Display.flip p.cells cell.1 cell.2, p.collision || Display.cell p.cells cell.1 cell.2⟩

/-- Plotting a list of cells without repetition flips exactly the listed cells. -/
theorem cell_plots : ∀ {cells : List (Fin 64 × Fin 32)} (p : Canvas) (c : Fin 64) (r : Fin 32), cells.Nodup →
    Display.cell (cells.foldl plot p).cells c r =
      if (c, r) ∈ cells then !Display.cell p.cells c r else Display.cell p.cells c r
  | [], _, _, _, _ => by simp
  | (c₀, r₀) :: rest, p, c, r, hn => by
    rw [List.nodup_cons] at hn
    rw [List.foldl_cons, cell_plots _ c r hn.2, plot, Display.cell_flip]
    by_cases heq : c = c₀ ∧ r = r₀
    · obtain ⟨rfl, rfl⟩ := heq
      simp [hn.1]
    · have hne : ¬ (c, r) = (c₀, r₀) := fun e => heq (by simpa using e)
      by_cases hm : (c, r) ∈ rest <;> simp [heq, hm]

/-- Plotting without repetition collides exactly when some listed cell was on. -/
theorem collision_plots : ∀ {cells : List (Fin 64 × Fin 32)} (p : Canvas), cells.Nodup →
    ((cells.foldl plot p).collision = true ↔
      p.collision = true ∨ ∃ c r, (c, r) ∈ cells ∧ Display.cell p.cells c r = true)
  | [], p, _ => by simp
  | (c₀, r₀) :: rest, p, hn => by
    rw [List.nodup_cons] at hn
    rw [List.foldl_cons, collision_plots _ hn.2]
    have hcell : ∀ c r, (c, r) ∈ rest →
        Display.cell (plot p (c₀, r₀)).cells c r = Display.cell p.cells c r := fun c r hm => by
      have : ¬ (c = c₀ ∧ r = r₀) := fun e => hn.1 (by obtain ⟨rfl, rfl⟩ := e; exact hm)
      rw [plot, Display.cell_flip, if_neg this]
    have hex : (∃ c r, (c, r) ∈ rest ∧ Display.cell (plot p (c₀, r₀)).cells c r = true) ↔
        ∃ c r, (c, r) ∈ rest ∧ Display.cell p.cells c r = true :=
      ⟨fun ⟨c, r, hm, h⟩ => ⟨c, r, hm, hcell c r hm ▸ h⟩, fun ⟨c, r, hm, h⟩ => ⟨c, r, hm, (hcell c r hm).trans h⟩⟩
    rw [hex]
    simp only [plot, Bool.or_eq_true, List.mem_cons, Prod.mk.injEq]
    constructor
    · rintro ((h | h) | ⟨c, r, hm, h⟩)
      · exact .inl h
      · exact .inr ⟨c₀, r₀, .inl ⟨rfl, rfl⟩, h⟩
      · exact .inr ⟨c, r, .inr hm, h⟩
    · rintro (h | ⟨c, r, ⟨rfl, rfl⟩ | hm, h⟩)
      · exact .inl (.inl h)
      · exact .inl (.inr h)
      · exact .inr ⟨c, r, hm, h⟩

/-! ## The cells of a sprite -/

/-- The cells under the set bits of one row byte, left to right. -/
def rowCells (cx cy : Nat) (b : Byte) : List (Fin 64 × Fin 32) :=
  ((List.range 8).filter fun col => b.getLsbD (7 - col)).map fun col => (Fin.ofNat 64 (cx + col), Fin.ofNat 32 cy)

/-- The cells under the set bits of the rows, top row first. -/
def spriteCells (cx : Nat) : Nat → List Byte → List (Fin 64 × Fin 32)
  | _, [] => []
  | cy, b :: rest => rowCells cx cy b ++ spriteCells cx (cy + 1) rest

theorem drawRow_eq_plots (cx cy : Nat) (b : Byte) (p : Canvas) :
    drawRow cx cy b p = (rowCells cx cy b).foldl plot p := by
  unfold drawRow rowCells
  generalize List.range 8 = cols
  induction cols generalizing p with
  | nil => rfl
  | cons col rest ih =>
    rw [List.foldl_cons, ih, List.filter_cons]
    by_cases hb : b.getLsbD (7 - col) = true
    · simp [drawPixel, hb, plot]
    · simp [drawPixel, hb]

theorem drawRows_eq_plots (cx : Nat) : ∀ (cy : Nat) (bs : List Byte) (p : Canvas),
    drawRows cx cy bs p = (spriteCells cx cy bs).foldl plot p
  | _, [], _ => rfl
  | cy, b :: rest, p => by
    rw [drawRows, drawRow_eq_plots, drawRows_eq_plots, spriteCells, List.foldl_append]

theorem mem_rowCells {cx cy : Nat} {b : Byte} {c : Fin 64} {r : Fin 32} :
    (c, r) ∈ rowCells cx cy b ↔
      r.val = cy % 32 ∧ ∃ col, col < 8 ∧ b.getLsbD (7 - col) = true ∧ c.val = (cx + col) % 64 := by
  simp only [rowCells, List.mem_map, List.mem_filter, List.mem_range, Prod.mk.injEq, Fin.ext_iff, Fin.val_ofNat]
  constructor
  · rintro ⟨col, ⟨hlt, hb⟩, hc, hr⟩
    exact ⟨hr.symm, col, hlt, hb, hc.symm⟩
  · rintro ⟨hr, col, hlt, hb, hc⟩
    exact ⟨col, ⟨hlt, hb⟩, hc.symm, hr.symm⟩

/-- A cell is listed exactly when a set bit of some row falls on it (R200, R202). -/
theorem mem_spriteCells {cx : Nat} {c : Fin 64} {r : Fin 32} : ∀ {cy : Nat} {bs : List Byte},
    (c, r) ∈ spriteCells cx cy bs ↔
      ∃ (row : Nat) (h : row < bs.length), r.val = (cy + row) % 32 ∧
        ∃ col, col < 8 ∧ bs[row].getLsbD (7 - col) = true ∧ c.val = (cx + col) % 64
  | _, [] => by simp [spriteCells]
  | cy, b :: rest => by
    rw [spriteCells, List.mem_append, mem_rowCells, mem_spriteCells]
    constructor
    · rintro (⟨hr, hcol⟩ | ⟨row, h, hr, hcol⟩)
      · exact ⟨0, by simp, by simpa using hr, by simpa using hcol⟩
      · exact ⟨row + 1, by simpa using h, by rw [hr]; congr 1; omega, by simpa using hcol⟩
    · rintro ⟨row, h, hr, hcol⟩
      cases row with
      | zero => exact .inl ⟨by simpa using hr, by simpa using hcol⟩
      | succ k => exact .inr ⟨k, by simpa using h, by rw [hr]; congr 1; omega, by simpa using hcol⟩

theorem rowCells_nodup (cx cy : Nat) (b : Byte) : (rowCells cx cy b).Nodup := by
  unfold rowCells List.Nodup
  rw [List.pairwise_map]
  refine List.Pairwise.imp_of_mem ?_ (List.nodup_range.filter _)
  intro i j hi hj hne heq
  simp only [List.mem_filter, List.mem_range, Prod.mk.injEq, Fin.ext_iff, Fin.val_ofNat] at hi hj heq
  omega

/-- No draw touches one cell twice: 8 columns and at most 32 rows (R202). -/
theorem spriteCells_nodup (cx : Nat) : ∀ (cy : Nat) (bs : List Byte), bs.length ≤ 32 → (spriteCells cx cy bs).Nodup
  | _, [], _ => List.nodup_nil
  | cy, b :: rest, hlen => by
    simp only [List.length_cons] at hlen
    refine List.nodup_append.2 ⟨rowCells_nodup cx cy b, spriteCells_nodup cx (cy + 1) rest (by omega), ?_⟩
    rintro ⟨c, r⟩ h₁ ⟨c', r'⟩ h₂ heq
    cases heq
    obtain ⟨hr, -⟩ := mem_rowCells.1 h₁
    obtain ⟨row, hrow, hr', -⟩ := mem_spriteCells.1 h₂
    omega

/-! ## The whole draw -/

theorem State.readBytes_length (s : State) (a n : Nat) : (s.readBytes a n).length = n := by simp [State.readBytes]

/-- The cells of the sprite DXYN draws are those `SpriteCovers` names. -/
theorem mem_spriteCells_iff_covers {s : State} {x y : Reg} {n : Nibble} {c : Fin 64} {r : Fin 32} :
    (c, r) ∈ spriteCells (s.reg x).toNat (s.reg y).toNat (s.readBytes s.index.toNat n.toNat) ↔
      SpriteCovers s x y n c r := by
  rw [mem_spriteCells]
  simp only [State.readBytes_length, State.reg, SpriteCovers]
  constructor
  · rintro ⟨row, h, hr, col, hcol, hb, hc⟩
    exact ⟨row, col, h, hcol, by simpa [State.readBytes] using hb, hc, hr⟩
  · rintro ⟨row, col, h, hcol, hb, hc, hr⟩
    exact ⟨row, h, hr, col, hcol, by simpa [State.readBytes] using hb, hc⟩

/-- What the compositor leaves of the display and the collision when DXYN runs (R200, R201). -/
theorem drawRows_spec (s : State) (x y : Reg) (n : Nibble) :
    let p := drawRows (s.reg x).toNat (s.reg y).toNat (s.readBytes s.index.toNat n.toNat) ⟨s.disp, false⟩
    (∀ c r, SpriteCovers s x y n c r → Display.cell p.cells c r = !Display.cell s.disp c r) ∧
    (∀ c r, ¬ SpriteCovers s x y n c r → Display.cell p.cells c r = Display.cell s.disp c r) ∧
    (p.collision = true ↔ ∃ c r, SpriteCovers s x y n c r ∧ Display.cell s.disp c r = true) := by
  intro p
  have hlen : (s.readBytes s.index.toNat n.toNat).length ≤ 32 := by
    rw [State.readBytes_length]
    have := n.isLt
    omega
  have hn := spriteCells_nodup (s.reg x).toNat (s.reg y).toNat _ hlen
  have hp : p = (spriteCells (s.reg x).toNat (s.reg y).toNat (s.readBytes s.index.toNat n.toNat)).foldl plot
      ⟨s.disp, false⟩ := drawRows_eq_plots _ _ _ _
  refine ⟨fun c r hc => ?_, fun c r hc => ?_, ?_⟩
  · rw [hp, cell_plots _ c r hn, if_pos (mem_spriteCells_iff_covers.2 hc)]
  · rw [hp, cell_plots _ c r hn, if_neg fun hm => hc (mem_spriteCells_iff_covers.1 hm)]
  · rw [hp, collision_plots _ hn]
    simp [mem_spriteCells_iff_covers]

end Sys2Proof.Machine
end

