-- ==== Sys2Proof/Laws/Exec.lean ====
section
/-! SUPPORT. What a body can do, said once for all instructions: it takes a fatal error and changes nothing else, or it
changes at most the components listed for it. -/

namespace Sys2Proof.Machine

/-- The components an instruction's own effect can change, by the pseudocode of its rule. -/
def changedBy : Instr → List Component
  | .cls => [.disp, .dirty]
  | .ret => [.pc, .sp]
  | .callNnn _ => [.pc, .sp, .stack]
  | .jpNnn _ | .jpV0Nnn _ | .seVxNn _ _ | .sneVxNn _ _ | .seVxVy _ _ | .sneVxVy _ _ | .skpVx _ | .sknpVx _ => [.pc]
  | .ldVxNn _ _ | .addVxNn _ _ | .ldVxVy _ _ | .orVxVy _ _ | .andVxVy _ _ | .xorVxVy _ _ => [.v]
  | .addVxVy _ _ | .subVxVy _ _ | .shrVxVy _ _ | .subnVxVy _ _ | .shlVxVy _ _ => [.v]
  | .rndVxNn _ _ => [.v, .draws]
  | .drwVxVyN _ _ _ => [.v, .disp, .dirty]
  | .ldINnn _ | .addIVx _ | .ldFVx _ => [.index]
  | .ldVxDt _ | .ldVxMemI _ => [.v]
  | .ldVxK _ => [.v, .pc]
  | .ldDtVx _ => [.dt]
  | .ldStVx _ => [.st]
  | .ldBVx _ | .ldMemIVx _ => [.mem]

/-- A checked body takes the error, or has the frame of what it runs. -/
theorem checked_frame {check : Option FatalError} {s body t : State} {cs : List Component}
    (h : checked check s body = .next t) (hb : Frame cs s body) : (∃ e, t = takeFatal s e) ∨ Frame cs s t := by
  rcases checked_cases h with ⟨e, -, rfl⟩ | ⟨-, rfl⟩
  · exact .inl ⟨e, rfl⟩
  · exact .inr hb

theorem skipOnKey_frame {p : Bool} {x : Reg} {s t : State} (h : skipOnKey p x s = .next t) :
    (∃ e, t = takeFatal s e) ∨ Frame [.pc] s t := by
  unfold skipOnKey at h
  split at h <;> cases h
  · exact .inl ⟨_, rfl⟩
  · exact .inr (frame_skipIf s _)

theorem execRet_frame {s t : State} (h : execRet s = .next t) : (∃ e, t = takeFatal s e) ∨ Frame [.pc, .sp] s t := by
  unfold execRet at h
  by_cases h0 : s.sp.val = 0
  · rw [State.pop_empty s h0] at h
    cases h
    exact .inl ⟨_, rfl⟩
  · obtain ⟨u, hu, -, hf⟩ := State.pop_spec s (by omega)
    rw [hu] at h
    cases h
    exact .inr ((hf.trans (frame_setPc u _)).mono (by simp))

theorem execCallNnn_frame {nnn : Addr12} {s t : State} (h : execCallNnn nnn s = .next t) :
    (∃ e, t = takeFatal s e) ∨ Frame [.pc, .sp, .stack] s t := by
  unfold execCallNnn at h
  by_cases h0 : s.sp.val = 16
  · rw [State.push_full s _ h0] at h
    cases h
    exact .inl ⟨_, rfl⟩
  · obtain ⟨u, hu, -, -, -, hf⟩ := State.push_spec s s.pc (by omega)
    rw [hu] at h
    cases h
    exact .inr ((hf.trans (frame_setPc u _)).mono (by simp))

theorem execLdVxK_frame {x : Reg} {s t : State} (h : execLdVxK x s = .next t) : Frame [.v, .pc] s t := by
  unfold execLdVxK at h
  split at h <;> cases h
  · exact (frame_setV s x _).mono (by simp)
  · exact (frame_setPc s _).mono (by simp)

theorem execAddIVx_frame {x : Reg} {s t : State} (h : execAddIVx x s = .next t) :
    (∃ e, t = takeFatal s e) ∨ Frame [.index] s t := by
  unfold execAddIVx at h
  simp only at h
  split at h
  · split at h <;> cases h
    · exact .inl ⟨_, rfl⟩
    · exact .inr (frame_setIndex s _)
  · cases h
    exact .inr (frame_setIndex s _)
  · cases h
    exact .inr (frame_setIndex s _)

/-- Every body either takes a fatal error and changes nothing else, or changes at most what `changedBy` lists. -/
theorem exec_frame {i : Instr} {s t : State} (h : exec i s = .next t) :
    (∃ e, t = takeFatal s e) ∨ Frame (changedBy i) s t := by
  cases i with
  | cls => cases h; exact .inr (frame_setDisp s _)
  | ret => exact execRet_frame h
  | callNnn nnn => exact execCallNnn_frame h
  | jpNnn nnn => cases h; exact .inr (frame_setPc s _)
  | jpV0Nnn nnn => cases h; exact .inr (frame_setPc s _)
  | seVxNn x nn => cases h; exact .inr (frame_skipIf s _)
  | sneVxNn x nn => cases h; exact .inr (frame_skipIf s _)
  | seVxVy x y => cases h; exact .inr (frame_skipIf s _)
  | sneVxVy x y => cases h; exact .inr (frame_skipIf s _)
  | skpVx x => exact skipOnKey_frame h
  | sknpVx x => exact skipOnKey_frame h
  | ldVxNn x nn => cases h; exact .inr (frame_setV s x _)
  | addVxNn x nn => cases h; exact .inr (frame_setV s x _)
  | ldVxVy x y => cases h; exact .inr (frame_setV s x _)
  | orVxVy x y => cases h; exact .inr (frame_setV s x _)
  | andVxVy x y => cases h; exact .inr (frame_setV s x _)
  | xorVxVy x y => cases h; exact .inr (frame_setV s x _)
  | addVxVy x y => cases h; exact .inr (frame_setResultAndFlag s x _ _)
  | subVxVy x y => cases h; exact .inr (frame_setResultAndFlag s x _ _)
  | shrVxVy x y => cases h; exact .inr (frame_setResultAndFlag s x _ _)
  | subnVxVy x y => cases h; exact .inr (frame_setResultAndFlag s x _ _)
  | shlVxVy x y => cases h; exact .inr (frame_setResultAndFlag s x _ _)
  | rndVxNn x nn => cases h; exact .inr (((frame_countDraw s).trans (frame_setV _ x _)).mono (by simp [changedBy]))
  | drwVxVyN x y n =>
    exact checked_frame h (((frame_setDisp s _).trans (frame_setV _ vf _)).mono (by simp [changedBy]))
  | ldINnn nnn => cases h; exact .inr (frame_setIndex s _)
  | addIVx x => exact execAddIVx_frame h
  | ldFVx x => cases h; exact .inr (frame_setIndex s _)
  | ldVxDt x => cases h; exact .inr (frame_setV s x _)
  | ldVxK x => exact .inr (execLdVxK_frame h)
  | ldDtVx x => cases h; exact .inr (frame_setDt s _)
  | ldStVx x => cases h; exact .inr (frame_setSt s _)
  | ldBVx x => exact checked_frame h (frame_writeBytes s _ _)
  | ldMemIVx x => exact checked_frame h (frame_writeBytes s _ _)
  | ldVxMemI x => exact checked_frame h (frame_loadRegs s x)

/-- A component that is not listed for the instruction, and is not HALT, is the same after the body. -/
theorem exec_same {i : Instr} {s t : State} (h : exec i s = .next t) {c : Component} (hc : c ∉ changedBy i)
    (hne : c ≠ .halt) : c.Same s t := by
  rcases exec_frame h with ⟨e, rfl⟩ | hf
  · exact (frame_takeFatal s e).1 c (by simpa using hne)
  · exact hf.1 c hc

/-- A store at I either takes an error, or had an in-range span outside a protected font and wrote it. -/
theorem storeAtIndex_cases {bytes : List Byte} {s t : State} (h : storeAtIndex bytes s = .next t)
    (hne : bytes.length ≠ 0) : (∃ e, t = takeFatal s e) ∨
      (s.index.toNat + bytes.length ≤ 0x1000 ∧ (s.cfg.fontWrite = .fault → 0x050 ≤ s.index.toNat) ∧
        t = s.writeBytes s.index.toNat bytes) := by
  rcases checked_cases h with ⟨e, -, rfl⟩ | ⟨hc, rfl⟩
  · exact .inl ⟨e, rfl⟩
  · refine .inr ⟨Decidable.byContradiction fun hout => ?_, fun hp => Decidable.byContradiction fun hlow => ?_, rfl⟩
    · rw [checkWrite_outside (by unfold InMemory; omega)] at hc
      cases hc
    · by_cases hin : InMemory s.index.toNat bytes.length
      · rw [hp, checkWrite_font hin (by omega)] at hc
        cases hc
      · rw [checkWrite_outside hin] at hc
        cases hc

end Sys2Proof.Machine
end

