-- ==== Sys2Proof/Laws/PerInstr.lean ====
section
/-! SUPPORT. The family FitsOwnRow, one lemma per constructor: the word of an instruction fits a row of the opcode map,
and that row reads the instruction back from it. -/

namespace Sys2Proof.Laws

/-- Some row of the opcode map fits the instruction's word and reads the instruction from it. -/
def FitsOwnRow.Statement (i : Instr) : Prop :=
  ∃ r ∈ opcodeTable, r.fits (encode i) = true ∧ r.read (encode i) = i

theorem FitsOwnRow.cls : FitsOwnRow.Statement .cls :=
  ⟨⟨"CLS", 0xFFFF, 0x00E0, fun _ => .cls⟩, by simp [opcodeTable, plainRows], by decide, rfl⟩

theorem FitsOwnRow.ret : FitsOwnRow.Statement .ret :=
  ⟨⟨"RET", 0xFFFF, 0x00EE, fun _ => .ret⟩, by simp [opcodeTable, plainRows], by decide, rfl⟩

theorem FitsOwnRow.jpNnn (nnn : Addr12) : FitsOwnRow.Statement (.jpNnn nnn) :=
  ⟨⟨"JP_nnn", 0xF000, 0x1000, fun op => .jpNnn (nnnOf op)⟩, by simp [opcodeTable, plainRows, registerRows, selectedRows],
    by simp only [Row.fits, encode, formatNnn_fixed]; decide, by simp only [encode, nnnOf_formatNnn]⟩

theorem FitsOwnRow.callNnn (nnn : Addr12) : FitsOwnRow.Statement (.callNnn nnn) :=
  ⟨⟨"CALL_nnn", 0xF000, 0x2000, fun op => .callNnn (nnnOf op)⟩, by simp [opcodeTable, plainRows, registerRows, selectedRows],
    by simp only [Row.fits, encode, formatNnn_fixed]; decide, by simp only [encode, nnnOf_formatNnn]⟩

theorem FitsOwnRow.seVxNn (x : Reg) (nn : Byte) : FitsOwnRow.Statement (.seVxNn x nn) :=
  ⟨⟨"SE_Vx__nn", 0xF000, 0x3000, fun op => .seVxNn (xOf op) (nnOf op)⟩, by simp [opcodeTable, plainRows, registerRows, selectedRows],
    by simp only [Row.fits, encode, formatXnn_fixed]; decide, by simp only [encode, xOf_formatXnn, nnOf_formatXnn]⟩

theorem FitsOwnRow.sneVxNn (x : Reg) (nn : Byte) : FitsOwnRow.Statement (.sneVxNn x nn) :=
  ⟨⟨"SNE_Vx__nn", 0xF000, 0x4000, fun op => .sneVxNn (xOf op) (nnOf op)⟩, by simp [opcodeTable, plainRows, registerRows, selectedRows],
    by simp only [Row.fits, encode, formatXnn_fixed]; decide, by simp only [encode, xOf_formatXnn, nnOf_formatXnn]⟩

theorem FitsOwnRow.seVxVy (x : Reg) (y : Reg) : FitsOwnRow.Statement (.seVxVy x y) :=
  ⟨⟨"SE_Vx__Vy", 0xF00F, 0x5000, fun op => .seVxVy (xOf op) (yOf op)⟩, by simp [opcodeTable, plainRows, registerRows, selectedRows],
    by simp only [Row.fits, encode, formatXy_fixed]; decide, by simp only [encode, xOf_formatXyn, yOf_formatXyn]⟩

theorem FitsOwnRow.ldVxNn (x : Reg) (nn : Byte) : FitsOwnRow.Statement (.ldVxNn x nn) :=
  ⟨⟨"LD_Vx__nn", 0xF000, 0x6000, fun op => .ldVxNn (xOf op) (nnOf op)⟩, by simp [opcodeTable, plainRows, registerRows, selectedRows],
    by simp only [Row.fits, encode, formatXnn_fixed]; decide, by simp only [encode, xOf_formatXnn, nnOf_formatXnn]⟩

theorem FitsOwnRow.addVxNn (x : Reg) (nn : Byte) : FitsOwnRow.Statement (.addVxNn x nn) :=
  ⟨⟨"ADD_Vx__nn", 0xF000, 0x7000, fun op => .addVxNn (xOf op) (nnOf op)⟩, by simp [opcodeTable, plainRows, registerRows, selectedRows],
    by simp only [Row.fits, encode, formatXnn_fixed]; decide, by simp only [encode, xOf_formatXnn, nnOf_formatXnn]⟩

theorem FitsOwnRow.ldVxVy (x : Reg) (y : Reg) : FitsOwnRow.Statement (.ldVxVy x y) :=
  ⟨⟨"LD_Vx__Vy", 0xF00F, 0x8000, fun op => .ldVxVy (xOf op) (yOf op)⟩, by simp [opcodeTable, plainRows, registerRows, selectedRows],
    by simp only [Row.fits, encode, formatXy_fixed]; decide, by simp only [encode, xOf_formatXyn, yOf_formatXyn]⟩

theorem FitsOwnRow.orVxVy (x : Reg) (y : Reg) : FitsOwnRow.Statement (.orVxVy x y) :=
  ⟨⟨"OR_Vx__Vy", 0xF00F, 0x8001, fun op => .orVxVy (xOf op) (yOf op)⟩, by simp [opcodeTable, plainRows, registerRows, selectedRows],
    by simp only [Row.fits, encode, formatXy_fixed]; decide, by simp only [encode, xOf_formatXyn, yOf_formatXyn]⟩

theorem FitsOwnRow.andVxVy (x : Reg) (y : Reg) : FitsOwnRow.Statement (.andVxVy x y) :=
  ⟨⟨"AND_Vx__Vy", 0xF00F, 0x8002, fun op => .andVxVy (xOf op) (yOf op)⟩, by simp [opcodeTable, plainRows, registerRows, selectedRows],
    by simp only [Row.fits, encode, formatXy_fixed]; decide, by simp only [encode, xOf_formatXyn, yOf_formatXyn]⟩

theorem FitsOwnRow.xorVxVy (x : Reg) (y : Reg) : FitsOwnRow.Statement (.xorVxVy x y) :=
  ⟨⟨"XOR_Vx__Vy", 0xF00F, 0x8003, fun op => .xorVxVy (xOf op) (yOf op)⟩, by simp [opcodeTable, plainRows, registerRows, selectedRows],
    by simp only [Row.fits, encode, formatXy_fixed]; decide, by simp only [encode, xOf_formatXyn, yOf_formatXyn]⟩

theorem FitsOwnRow.addVxVy (x : Reg) (y : Reg) : FitsOwnRow.Statement (.addVxVy x y) :=
  ⟨⟨"ADD_Vx__Vy", 0xF00F, 0x8004, fun op => .addVxVy (xOf op) (yOf op)⟩, by simp [opcodeTable, plainRows, registerRows, selectedRows],
    by simp only [Row.fits, encode, formatXy_fixed]; decide, by simp only [encode, xOf_formatXyn, yOf_formatXyn]⟩

theorem FitsOwnRow.subVxVy (x : Reg) (y : Reg) : FitsOwnRow.Statement (.subVxVy x y) :=
  ⟨⟨"SUB_Vx__Vy", 0xF00F, 0x8005, fun op => .subVxVy (xOf op) (yOf op)⟩, by simp [opcodeTable, plainRows, registerRows, selectedRows],
    by simp only [Row.fits, encode, formatXy_fixed]; decide, by simp only [encode, xOf_formatXyn, yOf_formatXyn]⟩

theorem FitsOwnRow.shrVxVy (x : Reg) (y : Reg) : FitsOwnRow.Statement (.shrVxVy x y) :=
  ⟨⟨"SHR_Vx____Vy", 0xF00F, 0x8006, fun op => .shrVxVy (xOf op) (yOf op)⟩, by simp [opcodeTable, plainRows, registerRows, selectedRows],
    by simp only [Row.fits, encode, formatXy_fixed]; decide, by simp only [encode, xOf_formatXyn, yOf_formatXyn]⟩

theorem FitsOwnRow.subnVxVy (x : Reg) (y : Reg) : FitsOwnRow.Statement (.subnVxVy x y) :=
  ⟨⟨"SUBN_Vx__Vy", 0xF00F, 0x8007, fun op => .subnVxVy (xOf op) (yOf op)⟩, by simp [opcodeTable, plainRows, registerRows, selectedRows],
    by simp only [Row.fits, encode, formatXy_fixed]; decide, by simp only [encode, xOf_formatXyn, yOf_formatXyn]⟩

theorem FitsOwnRow.shlVxVy (x : Reg) (y : Reg) : FitsOwnRow.Statement (.shlVxVy x y) :=
  ⟨⟨"SHL_Vx____Vy", 0xF00F, 0x800E, fun op => .shlVxVy (xOf op) (yOf op)⟩, by simp [opcodeTable, plainRows, registerRows, selectedRows],
    by simp only [Row.fits, encode, formatXy_fixed]; decide, by simp only [encode, xOf_formatXyn, yOf_formatXyn]⟩

theorem FitsOwnRow.sneVxVy (x : Reg) (y : Reg) : FitsOwnRow.Statement (.sneVxVy x y) :=
  ⟨⟨"SNE_Vx__Vy", 0xF00F, 0x9000, fun op => .sneVxVy (xOf op) (yOf op)⟩, by simp [opcodeTable, plainRows, registerRows, selectedRows],
    by simp only [Row.fits, encode, formatXy_fixed]; decide, by simp only [encode, xOf_formatXyn, yOf_formatXyn]⟩

theorem FitsOwnRow.ldINnn (nnn : Addr12) : FitsOwnRow.Statement (.ldINnn nnn) :=
  ⟨⟨"LD_I__nnn", 0xF000, 0xA000, fun op => .ldINnn (nnnOf op)⟩, by simp [opcodeTable, plainRows, registerRows, selectedRows],
    by simp only [Row.fits, encode, formatNnn_fixed]; decide, by simp only [encode, nnnOf_formatNnn]⟩

theorem FitsOwnRow.jpV0Nnn (nnn : Addr12) : FitsOwnRow.Statement (.jpV0Nnn nnn) :=
  ⟨⟨"JP_V0__nnn", 0xF000, 0xB000, fun op => .jpV0Nnn (nnnOf op)⟩, by simp [opcodeTable, plainRows, registerRows, selectedRows],
    by simp only [Row.fits, encode, formatNnn_fixed]; decide, by simp only [encode, nnnOf_formatNnn]⟩

theorem FitsOwnRow.rndVxNn (x : Reg) (nn : Byte) : FitsOwnRow.Statement (.rndVxNn x nn) :=
  ⟨⟨"RND_Vx__nn", 0xF000, 0xC000, fun op => .rndVxNn (xOf op) (nnOf op)⟩, by simp [opcodeTable, plainRows, registerRows, selectedRows],
    by simp only [Row.fits, encode, formatXnn_fixed]; decide, by simp only [encode, xOf_formatXnn, nnOf_formatXnn]⟩

theorem FitsOwnRow.drwVxVyN (x : Reg) (y : Reg) (n : Nibble) : FitsOwnRow.Statement (.drwVxVyN x y n) :=
  ⟨⟨"DRW_Vx__Vy__n", 0xF000, 0xD000, fun op => .drwVxVyN (xOf op) (yOf op) (nOf op)⟩, by simp [opcodeTable, plainRows, registerRows, selectedRows],
    by simp only [Row.fits, encode, formatXyn_fixed]; decide, by simp only [encode, xOf_formatXyn, yOf_formatXyn, nOf_formatXyn]⟩

theorem FitsOwnRow.skpVx (x : Reg) : FitsOwnRow.Statement (.skpVx x) :=
  ⟨⟨"SKP_Vx", 0xF0FF, 0xE09E, fun op => .skpVx (xOf op)⟩, by simp [opcodeTable, plainRows, registerRows, selectedRows],
    by simp only [Row.fits, encode, formatX_fixed]; decide, by simp only [encode, xOf_formatXnn]⟩

theorem FitsOwnRow.sknpVx (x : Reg) : FitsOwnRow.Statement (.sknpVx x) :=
  ⟨⟨"SKNP_Vx", 0xF0FF, 0xE0A1, fun op => .sknpVx (xOf op)⟩, by simp [opcodeTable, plainRows, registerRows, selectedRows],
    by simp only [Row.fits, encode, formatX_fixed]; decide, by simp only [encode, xOf_formatXnn]⟩

theorem FitsOwnRow.ldVxDt (x : Reg) : FitsOwnRow.Statement (.ldVxDt x) :=
  ⟨⟨"LD_Vx__DT", 0xF0FF, 0xF007, fun op => .ldVxDt (xOf op)⟩, by simp [opcodeTable, plainRows, registerRows, selectedRows],
    by simp only [Row.fits, encode, formatX_fixed]; decide, by simp only [encode, xOf_formatXnn]⟩

theorem FitsOwnRow.ldVxK (x : Reg) : FitsOwnRow.Statement (.ldVxK x) :=
  ⟨⟨"LD_Vx__K", 0xF0FF, 0xF00A, fun op => .ldVxK (xOf op)⟩, by simp [opcodeTable, plainRows, registerRows, selectedRows],
    by simp only [Row.fits, encode, formatX_fixed]; decide, by simp only [encode, xOf_formatXnn]⟩

theorem FitsOwnRow.ldDtVx (x : Reg) : FitsOwnRow.Statement (.ldDtVx x) :=
  ⟨⟨"LD_DT__Vx", 0xF0FF, 0xF015, fun op => .ldDtVx (xOf op)⟩, by simp [opcodeTable, plainRows, registerRows, selectedRows],
    by simp only [Row.fits, encode, formatX_fixed]; decide, by simp only [encode, xOf_formatXnn]⟩

theorem FitsOwnRow.ldStVx (x : Reg) : FitsOwnRow.Statement (.ldStVx x) :=
  ⟨⟨"LD_ST__Vx", 0xF0FF, 0xF018, fun op => .ldStVx (xOf op)⟩, by simp [opcodeTable, plainRows, registerRows, selectedRows],
    by simp only [Row.fits, encode, formatX_fixed]; decide, by simp only [encode, xOf_formatXnn]⟩

theorem FitsOwnRow.addIVx (x : Reg) : FitsOwnRow.Statement (.addIVx x) :=
  ⟨⟨"ADD_I__Vx", 0xF0FF, 0xF01E, fun op => .addIVx (xOf op)⟩, by simp [opcodeTable, plainRows, registerRows, selectedRows],
    by simp only [Row.fits, encode, formatX_fixed]; decide, by simp only [encode, xOf_formatXnn]⟩

theorem FitsOwnRow.ldFVx (x : Reg) : FitsOwnRow.Statement (.ldFVx x) :=
  ⟨⟨"LD_F__Vx", 0xF0FF, 0xF029, fun op => .ldFVx (xOf op)⟩, by simp [opcodeTable, plainRows, registerRows, selectedRows],
    by simp only [Row.fits, encode, formatX_fixed]; decide, by simp only [encode, xOf_formatXnn]⟩

theorem FitsOwnRow.ldBVx (x : Reg) : FitsOwnRow.Statement (.ldBVx x) :=
  ⟨⟨"LD_B__Vx", 0xF0FF, 0xF033, fun op => .ldBVx (xOf op)⟩, by simp [opcodeTable, plainRows, registerRows, selectedRows],
    by simp only [Row.fits, encode, formatX_fixed]; decide, by simp only [encode, xOf_formatXnn]⟩

theorem FitsOwnRow.ldMemIVx (x : Reg) : FitsOwnRow.Statement (.ldMemIVx x) :=
  ⟨⟨"LD__I___Vx", 0xF0FF, 0xF055, fun op => .ldMemIVx (xOf op)⟩, by simp [opcodeTable, plainRows, registerRows, selectedRows],
    by simp only [Row.fits, encode, formatX_fixed]; decide, by simp only [encode, xOf_formatXnn]⟩

theorem FitsOwnRow.ldVxMemI (x : Reg) : FitsOwnRow.Statement (.ldVxMemI x) :=
  ⟨⟨"LD_Vx___I", 0xF0FF, 0xF065, fun op => .ldVxMemI (xOf op)⟩, by simp [opcodeTable, plainRows, registerRows, selectedRows],
    by simp only [Row.fits, encode, formatX_fixed]; decide, by simp only [encode, xOf_formatXnn]⟩

end Sys2Proof.Laws
end

