-- ==== Sys2Proof/Tests/Slice0.lean ====
section
/-! SUPPORT. Tests of single steps, with the expected results of spec/95_test_vectors.md (the vector's number stands in
each comment), the refusals of the well-formedness checks, the written-out words of every instruction, and a witness for
every statement that has hypotheses. -/

namespace Sys2Proof.Tests

open Sys2Proof.Machine

/-! ## Helpers -/

/-- What `f` sees of the next state; none if the step stops. -/
def see {α : Type} (o : Host.Outcome State Fault Refusal) (f : State → α) : Option α :=
  match o with
  | .next t => some (f t)
  | .fault _ => none
  | .refused _ => none

/-- One step from `s` with the word `op` placed where it is fetched. -/
def run (op : Nat) (s : State) : Host.Outcome State Fault Refusal := step (s.withFetchWord 16 op)

/-- The reset state with some registers set. -/
def regs (l : List (Reg × Byte)) : State := l.foldl (fun s p => s.setV p.1 p.2) State.reset

/-- The reset state with VF = 0x55 and some registers set, as in T3. -/
def regs55 (l : List (Reg × Byte)) : State := l.foldl (fun s p => s.setV p.1 p.2) (State.reset.setV vf 0x55)

/-- With I set and bytes at an address. -/
def bytesAt (a : Nat) (bs : List Byte) (s : State) : State := (s.writeBytes a bs).setIndex (BitVec.ofNat 16 a)

/-- One cell of a display. -/
def cell (t : State) (c : Fin 64) (r : Fin 32) : Bool := Display.cell t.disp c r

/-- With a full call stack. -/
def fullStack (s : State) : State := { s with sp := 16 }

/-- With one key pressed. -/
def press (k : Fin 16) (s : State) : State := { s with key := s.key.set k true }

/-- With one waiting call. -/
def calling (c : Call) (s : State) : State := { s with calls := [c] }

/-- A halted core that has run. -/
def halted : State := { State.reset with halt := some ⟨.stackUnderflow, 0x200⟩, phase := .running }

/-- A core that is about to fetch `op`. -/
def ready (op : Nat) : State := State.reset.withFetchWord 16 op

/-- With a Cycle call waiting, and a Tick after it. -/
def cycleThenTick (s : State) : State := { s with calls := [.cycle, .tick] }

/-! ## Well-formedness refuses what is ill-formed -/

theorem test_wfPattern_refuses : wfPattern 0xF000 0x1001 = false := by decide
theorem test_disjointPatterns_refuses : disjointPatterns 0xF000 0x8000 0xF00F 0x8004 = false := by decide
theorem test_wfImage_accepts_3584 : wfImage (List.replicate 3584 0xAA) = true := by
  rw [wfImage, List.length_replicate]
  rfl
theorem test_wfImage_refuses_3585 : wfImage (List.replicate 3585 0xAA) = false := by
  rw [wfImage, List.length_replicate]
  rfl

/-! ## Written-out words, from the formats of R87 and the map R90 -/

theorem test_decode_control :
    decodeTableWord 16 0b0000000011100000 = some .cls ∧ decodeTableWord 16 0b0000000011101110 = some .ret ∧
    decodeTableWord 16 0b0001001000110100 = some (.jpNnn 0x234) ∧
    decodeTableWord 16 0b0010101010111100 = some (.callNnn 0xABC) ∧
    decodeTableWord 16 0b0011001101000010 = some (.seVxNn 3 0x42) ∧
    decodeTableWord 16 0b0100001101000010 = some (.sneVxNn 3 0x42) ∧
    decodeTableWord 16 0b0101000100100000 = some (.seVxVy 1 2) ∧
    decodeTableWord 16 0b1001000100100000 = some (.sneVxVy 1 2) ∧
    decodeTableWord 16 0b1011001100000000 = some (.jpV0Nnn 0x300) := by decide

theorem test_decode_arithmetic :
    decodeTableWord 16 0b0110000000000101 = some (.ldVxNn 0 0x05) ∧
    decodeTableWord 16 0b0111001000000010 = some (.addVxNn 2 0x02) ∧
    decodeTableWord 16 0b1000000000010000 = some (.ldVxVy 0 1) ∧
    decodeTableWord 16 0b1000000000010001 = some (.orVxVy 0 1) ∧
    decodeTableWord 16 0b1000000000010010 = some (.andVxVy 0 1) ∧
    decodeTableWord 16 0b1000000000010011 = some (.xorVxVy 0 1) ∧
    decodeTableWord 16 0b1000000000010100 = some (.addVxVy 0 1) ∧
    decodeTableWord 16 0b1000000000010101 = some (.subVxVy 0 1) ∧
    decodeTableWord 16 0b1000000100100110 = some (.shrVxVy 1 2) ∧
    decodeTableWord 16 0b1000000000010111 = some (.subnVxVy 0 1) ∧
    decodeTableWord 16 0b1000000100101110 = some (.shlVxVy 1 2) ∧
    decodeTableWord 16 0b1100001100001111 = some (.rndVxNn 3 0x0F) := by decide

theorem test_decode_display : decodeTableWord 16 0b1101001010100101 = some (.drwVxVyN 2 10 5) := by decide

theorem test_decode_index_keys_timers_memory :
    decodeTableWord 16 0b1010001100000000 = some (.ldINnn 0x300) ∧
    decodeTableWord 16 0b1110010110011110 = some (.skpVx 5) ∧
    decodeTableWord 16 0b1110010110100001 = some (.sknpVx 5) ∧
    decodeTableWord 16 0b1111001100000111 = some (.ldVxDt 3) ∧
    decodeTableWord 16 0b1111001100001010 = some (.ldVxK 3) ∧
    decodeTableWord 16 0b1111001100010101 = some (.ldDtVx 3) ∧
    decodeTableWord 16 0b1111001100011000 = some (.ldStVx 3) ∧
    decodeTableWord 16 0b1111001000011110 = some (.addIVx 2) ∧
    decodeTableWord 16 0b1111010000101001 = some (.ldFVx 4) ∧
    decodeTableWord 16 0b1111000000110011 = some (.ldBVx 0) ∧
    decodeTableWord 16 0b1111111101010101 = some (.ldMemIVx 15) ∧
    decodeTableWord 16 0b1111010001100101 = some (.ldVxMemI 4) := by decide

/-- T1 #1 to #5: unknown words. -/
theorem test_decode_unknown :
    decodeTableWord 16 0x0123 = none ∧ decodeTableWord 16 0x0000 = none ∧ decodeTableWord 16 0x5121 = none ∧
    decodeTableWord 16 0x800F = none ∧ decodeTableWord 16 0x8008 = none ∧ decodeTableWord 16 0xE000 = none ∧
    decodeTableWord 16 0xF0FF = none := by decide

/-! ## The cycle (T1) -/

/-- T1 #1. -/
theorem test_unknown_advances : see (run 0x0123 State.reset) (fun t => (t.reply, t.pc, t.halt)) =
    some (.unknown ⟨0x0123, 0x200⟩, 0x202, none) := by decide
/-- T1 #6: an odd pc. -/
theorem test_odd_pc : see (run 0x6005 (State.reset.setPc 0x201)) (fun t => (t.reg 0, t.pc)) = some (5, 0x203) := by decide
/-- T1 #7: the last fetchable word. -/
theorem test_last_word : see (run 0x1200 (State.reset.setPc 0xFFE)) (·.pc) = some 0x200 := by decide
/-- T1 #8. -/
theorem test_fetch_outside : see (step (calling .cycle (State.reset.setPc 0xFFF))) (fun t => (t.reply, t.pc)) =
    some (.fatal ⟨.memoryOutOfRange, 0x1000⟩, 0xFFF) := by decide
/-- T1 #6's word by a waiting Cycle call: the call is answered, the next one waits (R284). -/
theorem test_cycle_call : see (step (cycleThenTick (ready 0x6005))) (fun t => (t.reg 0, t.pc, t.calls)) =
    some (5, 0x202, [.tick]) := by decide
/-- T1 #10. -/
theorem test_halted_cycle : see (step (calling .cycle halted)) (fun t => (t.reply, t.pc)) =
    some (.fatal ⟨.stackUnderflow, 0x200⟩, 0x200) := by decide

/-! ## Control flow (T2) -/

/-- T2 #1. -/
theorem test_cls : see (run 0x00E0 { State.reset with disp := Display.flip State.reset.disp 5 7 })
    (fun t => (cell t 5 7, t.dirty, t.pc)) = some (false, true, 0x202) := by decide
/-- T2 #3. -/
theorem test_ret : see (run 0x00EE { State.reset with sp := 2, stack := State.reset.stack.set 1 0x456 })
    (fun t => (t.pc, t.sp)) = some (0x456, 1) := by decide
/-- T2 #4. -/
theorem test_ret_underflow : see (run 0x00EE State.reset) (fun t => (t.reply, t.pc)) =
    some (.fatal ⟨.stackUnderflow, 0x200⟩, 0x202) := by decide
/-- S3. -/
theorem test_jp : see (run 0x1ABC State.reset) (·.pc) = some 0xABC := by decide
/-- T2 #7. -/
theorem test_call : see (run 0x2ABC State.reset) (fun t => (t.stack[0], t.sp, t.pc)) = some (0x202, 1, 0xABC) := by decide
/-- T2 #9. -/
theorem test_call_overflow : see (run 0x2400 (fullStack (State.reset.setPc 0x300))) (fun t => (t.reply, t.pc, t.sp)) =
    some (.fatal ⟨.stackOverflow, 0x300⟩, 0x302, 16) := by decide
/-- T2 #10, #11. -/
theorem test_se_nn : see (run 0x3342 (regs [(3, 0x42)])) (·.pc) = some 0x204 ∧
    see (run 0x3342 (regs [(3, 0x41)])) (·.pc) = some 0x202 := by decide
/-- T2 #12, #13. -/
theorem test_sne_nn : see (run 0x4342 (regs [(3, 0x42)])) (·.pc) = some 0x202 ∧
    see (run 0x4342 (regs [(3, 0x41)])) (·.pc) = some 0x204 := by decide
/-- T2 #15, #16. -/
theorem test_se_reg : see (run 0x5120 (regs [(1, 7), (2, 7)])) (·.pc) = some 0x204 ∧
    see (run 0x5120 (regs [(1, 7), (2, 8)])) (·.pc) = some 0x202 := by decide
/-- T2 #18, #19. -/
theorem test_sne_reg : see (run 0x9120 (regs [(1, 7), (2, 8)])) (·.pc) = some 0x204 ∧
    see (run 0x9110 (regs [(1, 7)])) (·.pc) = some 0x202 := by decide
/-- T2 #21. -/
theorem test_jp_v0 : see (run 0xBFFF (regs [(0, 0xFF)])) (·.pc) = some 0x10FE := by decide

/-! ## Registers and arithmetic (T3) -/

/-- T3 #1. -/
theorem test_ld_nn : see (run 0x6F12 State.reset) (fun t => (t.reg vf, t.pc)) = some (0x12, 0x202) := by decide
/-- T3 #2. -/
theorem test_add_nn_wraps : see (run 0x7202 (regs55 [(2, 0xFF)])) (fun t => (t.reg 2, t.reg vf)) =
    some (0x01, 0x55) := by decide
/-- T3 #5. -/
theorem test_ld_reg : see (run 0x8010 (regs55 [(0, 0x11), (1, 0x33)])) (fun t => (t.reg 0, t.reg 1, t.reg vf)) =
    some (0x33, 0x33, 0x55) := by decide
/-- T3 #6. -/
theorem test_or : see (run 0x8011 (regs55 [(0, 0x0F), (1, 0xF0)])) (fun t => (t.reg 0, t.reg vf)) =
    some (0xFF, 0x55) := by decide
/-- T3 #7. -/
theorem test_and : see (run 0x8012 (regs55 [(0, 0x3C), (1, 0x0F)])) (fun t => (t.reg 0, t.reg vf)) =
    some (0x0C, 0x55) := by decide
/-- T3 #8. -/
theorem test_xor : see (run 0x8013 (regs55 [(0, 0x3C), (1, 0x0F)])) (fun t => (t.reg 0, t.reg vf)) =
    some (0x33, 0x55) := by decide
/-- T3 #12. -/
theorem test_add_reg : see (run 0x8014 (regs55 [(0, 0xFF), (1, 0x01)])) (fun t => (t.reg 0, t.reg vf)) =
    some (0x00, 1) := by decide
/-- T3 #17: x = F. -/
theorem test_add_into_vf : see (run 0x8F14 (regs [(vf, 0x10), (1, 0xF5)])) (·.reg vf) = some 1 := by decide
/-- T3 #19. -/
theorem test_sub : see (run 0x8015 (regs55 [(0, 0x05), (1, 0x09)])) (fun t => (t.reg 0, t.reg vf)) =
    some (0xFC, 0) := by decide
/-- T3 #21: equal operands. -/
theorem test_sub_equal : see (run 0x8015 (regs55 [(0, 0x07), (1, 0x07)])) (fun t => (t.reg 0, t.reg vf)) =
    some (0x00, 1) := by decide
/-- T3 #30: y is ignored. -/
theorem test_shr : see (run 0x8126 (regs55 [(1, 0x10), (2, 0xFF)])) (fun t => (t.reg 1, t.reg 2, t.reg vf)) =
    some (0x08, 0xFF, 0) := by decide
/-- T3 #31: x = F. -/
theorem test_shr_vf : see (run 0x8F06 (regs [(vf, 0x03)])) (·.reg vf) = some 1 := by decide
/-- T3 #33. -/
theorem test_subn : see (run 0x8017 (regs55 [(0, 0x09), (1, 0x05)])) (fun t => (t.reg 0, t.reg vf)) =
    some (0xFC, 0) := by decide
/-- T3 #34. -/
theorem test_subn_no_borrow : see (run 0x8017 (regs55 [(0, 0x05), (1, 0x09)])) (fun t => (t.reg 0, t.reg vf)) =
    some (0x04, 1) := by decide
/-- T3 #37. -/
theorem test_shl : see (run 0x810E (regs55 [(1, 0x81)])) (fun t => (t.reg 1, t.reg vf)) = some (0x02, 1) := by decide
/-- T3 #42: x = F. -/
theorem test_shl_vf : see (run 0x8F0E (regs [(vf, 0x40)])) (·.reg vf) = some 0 := by decide
/-- T3 #44: the mask 0, whatever the draw; the draw itself is a free value, so no other value can be tested. -/
theorem test_rnd_mask_zero : ∃ t, execRndVxNn 3 0x00 State.reset = .next t ∧ t.reg 3 = 0x00 ∧ t.draws = 1 :=
  ⟨_, rfl, by simp [State.reg, State.setV], rfl⟩

/-! ## Display (T4) -/

/-- T4 #3: each pixel wraps by itself. -/
theorem test_drw_wraps_columns : see (run 0xD011 (bytesAt 0x300 [0xFF] (regs55 [(0, 62), (1, 31)])))
    (fun t => ([cell t 61 31, cell t 62 31, cell t 63 31, cell t 0 31, cell t 5 31, cell t 6 31, cell t 0 0], t.reg vf)) =
    some ([false, true, true, true, true, false, false], 0) := by decide
/-- T4 #5: a collision. -/
theorem test_drw_collision : see (run 0xD011 (bytesAt 0x300 [0x18]
    { State.reset with disp := Display.flip (Display.flip State.reset.disp 2 0) 3 0 }))
    (fun t => ([cell t 2 0, cell t 3 0, cell t 4 0, cell t 5 0], t.reg vf, t.dirty)) =
    some ([true, false, true, false], 1, true) := by decide

/-! ## Index, keys, timers, memory (T5) -/

/-- T5 #2. -/
theorem test_ld_i : see (run 0xAFFF State.reset) (·.index) = some 0xFFF := by decide
/-- T5 #3, #7. -/
theorem test_skp : see (run 0xE59E (press 0xA (regs [(5, 0x0A)]))) (·.pc) = some 0x204 ∧
    see (run 0xE59E (regs [(5, 0x10)])) (fun t => (t.reply, t.pc)) = some (.fatal ⟨.keyIndexOutOfRange, 0x10⟩, 0x202) := by
  decide
/-- T5 #5, #6. -/
theorem test_sknp : see (run 0xE5A1 (regs [(5, 0x0A)])) (·.pc) = some 0x204 ∧
    see (run 0xE5A1 (press 0xA (regs [(5, 0x0A)]))) (·.pc) = some 0x202 := by decide
/-- T5 #9. -/
theorem test_ld_vx_dt : see (run 0xF307 (State.reset.setDt 0x3C)) (fun t => (t.reg 3, t.dt)) = some (0x3C, 0x3C) := by
  decide
/-- T5 #10. -/
theorem test_ld_dt : see (run 0xF315 (regs [(3, 0x3C)])) (·.dt) = some 0x3C := by decide
/-- T5 #11. -/
theorem test_ld_st : see (run 0xF318 (regs [(3, 0x05)])) (·.st) = some 0x05 := by decide
/-- T5 #12. -/
theorem test_add_i : see (run 0xF21E ((regs55 [(2, 0x20)]).setIndex 0x300)) (fun t => (t.index, t.reg vf)) =
    some (0x320, 0x55) := by decide
/-- T5 #14, the policy `fault`. -/
theorem test_add_i_outside : see (run 0xF21E ((regs [(2, 0x02)]).setIndex 0xFFE)) (fun t => (t.reply, t.index)) =
    some (.fatal ⟨.memoryOutOfRange, 0x1000⟩, 0xFFE) := by decide
/-- T5 #17, #18. -/
theorem test_ld_f : see (run 0xF429 (regs [(4, 0xFA)])) (·.index) = some 0x032 ∧
    see (run 0xF429 (regs [(4, 0x0F)])) (·.index) = some 0x04B := by decide
/-- T5 #26: the top of memory. -/
theorem test_bcd : see (run 0xF033 ((regs [(0, 123)]).setIndex 0xFFD))
    (fun t => (t.readBytes 0xFFD 3, t.index)) = some ([1, 2, 3], 0xFFD) := by decide
/-- T5 #27, the policy `fault`. -/
theorem test_bcd_font : see (run 0xF033 (State.reset.setIndex 0x04F)) (·.reply) =
    some (.fatal ⟨.readOnlyWrite, 0x04F⟩) := by decide
/-- T5 #29. -/
theorem test_store : see (run 0xF055 ((regs [(0, 0xAB), (1, 0xCD)]).setIndex 0x400))
    (fun t => (t.readBytes 0x400 2, t.index)) = some ([0xAB, 0x00], 0x400) := by decide
/-- T5 #31. -/
theorem test_store_outside : see (run 0xFF55 (State.reset.setIndex 0xFF1)) (·.reply) =
    some (.fatal ⟨.memoryOutOfRange, 0x1000⟩) := by decide
/-- T5 #33: the font is readable. -/
theorem test_load : see (run 0xF465 (regs [(5, 0x77)]))
    (fun t => ([t.reg 0, t.reg 1, t.reg 2, t.reg 3, t.reg 4, t.reg 5], t.index)) =
    some ([0xF0, 0x90, 0x90, 0x90, 0xF0, 0x77], 0) := by decide
/-- T5 #35. -/
theorem test_load_outside : see (run 0xF165 (State.reset.setIndex 0xFFF)) (·.reply) =
    some (.fatal ⟨.memoryOutOfRange, 0x1000⟩) := by decide
/-- T5 #36. -/
theorem test_wait : see (run 0xF30A State.reset) (fun t => (t.reply, t.pc)) = some (.ok, 0x200) := by decide
/-- T5 #37. -/
theorem test_wait_lowest : see (run 0xF50A (press 7 (press 3 State.reset))) (fun t => (t.reg 5, t.pc)) =
    some (3, 0x202) := by decide

/-! ## Host calls (T6, T7) -/

/-- T6 #1, #3. -/
theorem test_tick : see (step (calling .tick { State.reset with dt := 1 })) (fun t => (t.dt, t.st)) = some (0, 0) ∧
    see (step (calling .tick { State.reset with dt := 0x3C, st := 5 })) (fun t => (t.dt, t.st)) = some (0x3B, 4) := by
  decide
/-- T6 #5. -/
theorem test_tick_halted : see (step (calling .tick { halted with dt := 5 })) (·.dt) = some 5 := by decide
/-- T7 #1. -/
theorem test_reset_call : see (step (calling .reset { halted with dt := 5 }))
    (fun t => (t.halt, t.dt, t.pc, t.readBytes 0 5)) = some (none, 0, 0x200, [0xF0, 0x90, 0x90, 0x90, 0xF0]) := by decide
/-- P1's image, by `Load`. -/
theorem test_load_call : see (step (calling (.load [0x60, 0x05]) State.reset)) (fun t => (t.reply, t.readWord 0x200)) =
    some (.ok, 0x6005) := by decide
/-- T7 #3. -/
theorem test_load_overflow : step (calling (.load (List.replicate 3585 0xAA)) State.reset) =
    .next { State.reset with reply := .loadOverflow 3585 } := by
  have hphase : State.reset.phase = .beforeLoad := rfl
  show load (List.replicate 3585 0xAA) State.reset = _
  rw [load, if_pos hphase, test_wfImage_refuses_3585, List.length_replicate]
  rfl

/-! ## Witnesses: states and operands that meet the hypotheses of the statements, at the boundaries of each clause -/

/-- The step answers a next state that `p` holds of. -/
abbrev answers (o : Host.Outcome State Fault Refusal) (p : State → Bool) : Prop := see o p = some true

/-- A state that is not the reset state and meets the invariant: a halted core with a stored byte and a call made. -/
def deep : State :=
  { State.reset with
    mem := [(0x050, 0x07), (0xFFF, 0x01)], index := 0xFFF, pc := 0x10FE, sp := 1,
    stack := State.reset.stack.set 0 0x1000, halt := some ⟨.memoryOutOfRange, 0x10FE⟩, calls := [.cycle],
    phase := .running }

theorem deep_inv : MachineInv deep := by
  refine ⟨by decide, fun _ => ?_, by decide, by decide, by decide, by decide⟩
  intro a h
  have hm : Memory.read Config.default.fontTable deep.mem a = Memory.unlisted Config.default.fontTable a := by
    simp [deep, Memory.read, show ¬ 0x050 = a by omega, show ¬ 0xFFF = a by omega]
  show Memory.read Config.default.fontTable deep.mem a = _
  rw [hm, Memory.unlisted, dif_pos h]
  rfl

/-- `ready op` is about to fetch `op`, with a Cycle call waiting alone or before a Tick; so it is at the last fetchable
address. -/
theorem fetches_ready : Fetches (ready 0x6005) 0x6005 ∧ Fetches (ready 0x00EE) 0x00EE ∧ Fetches (ready 0x0FFF) 0x0FFF ∧
    Fetches ((State.reset.setPc 0xFFE).withFetchWord 16 0xF30A) 0xF30A :=
  ⟨⟨rfl, by decide⟩, ⟨rfl, by decide⟩, ⟨rfl, by decide⟩, ⟨rfl, by decide⟩⟩

theorem fetches_waiting : Fetches (cycleThenTick (ready 0x6005)) 0x6005 ∧ Fetches (cycleThenTick (ready 0x00EE)) 0x00EE ∧
    Fetches (cycleThenTick (ready 0x0FFF)) 0x0FFF ∧
    Fetches (cycleThenTick ((State.reset.setPc 0xFFE).withFetchWord 16 0xF30A)) 0xF30A :=
  ⟨⟨rfl, by decide⟩, ⟨rfl, by decide⟩, ⟨rfl, by decide⟩, ⟨rfl, by decide⟩⟩

/-- With no call waiting the next call is the host's free choice, and taking it moves to the next one. -/
theorem test_free_call : nextCall State.reset = Config.hostCall 0 ∧ State.reset.takeCall.hostTurn = 1 := ⟨rfl, rfl⟩

/-- A Cycle right after a rejected Load is answered, and then a Load is refused (log entry 30). -/
theorem test_cycle_after_rejected_load :
    see (step (calling .cycle { State.reset with reply := .loadOverflow 3585 })) (fun t => (t.reply, t.pc)) =
      some (.unknown ⟨0x0000, 0x200⟩, 0x202) ∧
    step (calling (.load [0x60]) { State.reset with phase := .running }) = .refused .loadOutsideBoot := ⟨by decide, rfl⟩

theorem witness_DecodedWordIsItsEncoding : decodeWord 0xFF65 = some (.ldVxMemI 15) := by decide

theorem witness_WordSelectsItsOnlyRow :
    (opcodeTable.filter fun r => (0x8FF4 : Word) &&& r.mask == r.pattern).map (·.mnemonic) = ["ADD_Vx__Vy"] := by decide

/-- The first and last words of the gaps of R92, and their known neighbours. -/
theorem witness_UnknownWordsAreExactlyTheListed :
    ([0x0000, 0x00DF, 0x00E1, 0x00ED, 0x00EF, 0x0FFF, 0x5001, 0x5FFF, 0x8008, 0x8FFD, 0x8FFF, 0x9001, 0x9FFF, 0xE000,
      0xEFFF, 0xF000, 0xFFFF].map decodeWord = List.replicate 17 none) ∧
    decodeWord 0x8007 = some (.subnVxVy 0 0) ∧ decodeWord 0x8FFE = some (.shlVxVy 15 15) := by decide

theorem witness_SourcePatternsDecode :
    (0x1FFF : Word) &&& 0xF000 = 0x1000 ∧ (0x6FFF : Word) &&& 0xF000 = 0x6000 ∧ (0x8FF4 : Word) &&& 0xF00F = 0x8004 := by
  decide

theorem witness_StepThatMakesACycleIsTheCycle : MakesCycle (calling .cycle State.reset) ∧ MakesCycle (cycleThenTick State.reset) :=
  ⟨rfl, rfl⟩

/-- One that completes, one whose body raises, one unknown, each with a Cycle call waiting too (`fetches_waiting`); the
last fetchable address is in `fetches_ready`. -/
theorem witness_StepRunsTheDecodedInstruction :
    decodeWord 0x6005 = some (.ldVxNn 0 5) ∧
    answers (exec (.ldVxNn 0 5) { (ready 0x6005).takeCall with pc := 0x202, phase := .running }) (·.halt == none) ∧
    decodeWord 0x00EE = some .ret ∧
    answers (exec .ret { (ready 0x00EE).takeCall with pc := 0x202, phase := .running })
      (·.halt == some ⟨.stackUnderflow, 0x200⟩) ∧
    answers (exec (.ldVxNn 0 5) { (cycleThenTick (ready 0x6005)).takeCall with pc := 0x202, phase := .running })
      (·.halt == none) ∧
    decodeWord 0x0FFF = none := by decide

theorem witness_UnknownWordIsReportedAndSkipped : Fetches (ready 0x0FFF) 0x0FFF ∧
    Fetches (cycleThenTick (ready 0x0FFF)) 0x0FFF ∧ decodeWord 0x0FFF = none :=
  ⟨fetches_ready.2.2.1, fetches_waiting.2.2.1, by decide⟩

/-- The first address that cannot be fetched from, and the highest `pc` a rule can write. -/
theorem witness_FetchOutsideMemoryIsFatal :
    MakesCycle (calling .cycle (State.reset.setPc 0xFFF)) ∧ MakesCycle (cycleThenTick (State.reset.setPc 0x10FE)) ∧
    ([calling .cycle (State.reset.setPc 0xFFF), cycleThenTick (State.reset.setPc 0x10FE)].all fun s =>
      !s.cfg.haltOnUnknown && s.halt == none && decide (0xFFE < s.pc.toNat)) = true :=
  ⟨rfl, rfl, by decide⟩

theorem witness_HaltedCycleRepeatsItsError :
    let s := cycleThenTick halted
    MakesCycle s ∧ (s.cfg.haltOnUnknown = true → s.unknowns = []) ∧ s.halt = some ⟨.stackUnderflow, 0x200⟩ :=
  ⟨rfl, by decide⟩

/-- A body error at the last fetchable word, and a fetch error at the address after it. -/
theorem witness_FatalErrorsArePrecise :
    (let s := (State.reset.setPc 0xFFE).withFetchWord 16 0x00EE
     s.halt = none ∧ s.pc.toNat ≤ 0xFFE ∧ answers (cycle s) (·.halt == some ⟨.stackUnderflow, 0xFFE⟩)) ∧
    (let s := State.reset.setPc 0xFFF
     s.halt = none ∧ 0xFFE < s.pc.toNat ∧ answers (cycle s) (·.halt == some ⟨.memoryOutOfRange, 0x1000⟩)) := by decide

theorem witness_CyclesChangeTimersOnlyBySettingThem :
    answers (run 0xF015 (regs [(0, 9)])) (·.dt != 0) ∧ answers (run 0xF018 (regs [(0, 9)])) (·.st != 0) := by decide

theorem witness_IndexStackAndDisplayHaveTheirOwnWriters :
    answers (cycle (ready 0xA001)) (·.index != 0) ∧ answers (cycle (ready 0x2300)) (·.sp != 0) ∧
    answers (cycle (ready 0x00E0)) (·.dirty != false) := by decide

/-- The last byte of each store. -/
theorem witness_MemoryChangesOnlyInsideTheStoredSpan :
    answers (run 0xF033 ((regs [(0, 9)]).setIndex 0xFFD)) (·.readByte 0xFFF != 0) ∧
    answers (run 0xFF55 ((regs [(15, 9)]).setIndex 0xFF0)) (·.readByte 0xFFF != 0) := by decide

theorem witness_FlagRegisterHasItsOwnWriters :
    answers (exec (.addVxVy 0 1) (regs [(0, 0xFF), (1, 1)])) (·.reg vf != 0) ∧
    answers (exec (.ldVxNn vf 7) State.reset) (·.reg vf != 0) := by decide

theorem witness_OnlyRandomTakesADraw :
    (∃ t, exec (.rndVxNn 3 0xFF) State.reset = .next t) ∧ ∃ t, exec .cls State.reset = .next t :=
  ⟨⟨_, rfl⟩, ⟨_, rfl⟩⟩

/-- A machine whose host stops after an `Unknown`, with one reported. -/
def stoppedByHost : State :=
  { State.reset with
    cfg := { Config.default with haltOnUnknown := true }, unknowns := [⟨0, 0x200⟩], calls := [.cycle, .tick],
    phase := .running }

theorem witness_StepStopsOnlyByTheHost :
    step stoppedByHost = .fault .hostStopsCycling ∧
    step (calling (.load []) { State.reset with phase := .loaded }) = .refused .loadOutsideBoot ∧
    answers (step (ready 0x1200)) (fun _ => true) := ⟨rfl, rfl, by decide⟩

theorem witness_StepKeepsMachineInvariant : MachineInv deep ∧ ∃ t, step deep = .next t := ⟨deep_inv, _, rfl⟩

theorem witness_OnlyResetLeavesTheHaltedState :
    MachineInv deep ∧ deep.halt = some ⟨.memoryOutOfRange, 0x10FE⟩ ∧ nextCall deep ≠ .reset ∧
    ∃ t, step deep = .next t := ⟨deep_inv, rfl, by decide, _, rfl⟩

theorem witness_EveryStepTakesOneCallOfTheHost :
    (cycleThenTick halted).takeCall.calls = [.tick] ∧ answers (step (cycleThenTick halted)) (fun _ => true) := by decide

theorem witness_TickCountsBothTimersDown :
    nextCall (calling .tick State.reset) = .tick ∧ (calling .tick State.reset).halt = none ∧
    nextCall (calling .tick halted) = .tick ∧ (calling .tick halted).halt ≠ none := by decide

theorem witness_SetKeyIsTheOnlyWriterOfKeys :
    nextCall (calling (.setKey 15 true) State.reset) = .setKey 15 true ∧
    answers (step (calling (.setKey 15 true) State.reset)) (·.key != State.reset.key) ∧
    answers (step (calling .reset (press 15 State.reset))) (·.key != (press 15 State.reset).key) := by decide

theorem witness_ReadDisplayReturnsTheDisplay : nextCall (calling .readDisplay State.reset) = .readDisplay := rfl

theorem witness_AckDisplayClearsDirty : nextCall (calling .ackDisplay State.reset) = .ackDisplay := rfl

/-- The longest image that fits, and the shortest that does not. -/
theorem witness_LoadCopiesTheImageOrRejectsIt :
    Memory.wf State.reset.cfg.fontTable State.reset.mem = true ∧ State.reset.phase = .beforeLoad ∧
    nextCall (calling (.load (List.replicate 3584 0xAA)) State.reset) = .load (List.replicate 3584 0xAA) ∧
    (List.replicate 3584 (0xAA : Byte)).length ≤ 3584 ∧ 3584 < (List.replicate 3585 (0xAA : Byte)).length :=
  ⟨rfl, rfl, rfl, Nat.le_of_eq List.length_replicate, by rw [List.length_replicate]; decide⟩

theorem witness_LoadOutsideBootIsRefused :
    ({ State.reset with phase := .loaded } : State).phase ≠ .beforeLoad ∧
    nextCall (calling (.load [0x60]) { State.reset with phase := .loaded }) = .load [0x60] ∧ halted.phase ≠ .beforeLoad := by
  decide

theorem witness_ResetSetsEveryComponent : nextCall (calling .reset deep) = .reset := rfl

theorem witness_HostPolicyDecidesAfterUnknown :
    MakesCycle stoppedByHost ∧ stoppedByHost.unknowns ≠ [] ∧ stoppedByHost.cfg.haltOnUnknown = true ∧
    MakesCycle { stoppedByHost with cfg := Config.default } ∧
    ({ stoppedByHost with cfg := Config.default } : State).cfg.haltOnUnknown = false :=
  ⟨rfl, by decide, rfl, rfl, rfl⟩

theorem witness_ResultAndFlagAreTheExactResult :
    (0 : Reg) ≠ vf ∧ (∃ t, exec (.addVxVy 0 0) State.reset = .next t) ∧ (∃ t, exec (.subVxVy 0 15) State.reset = .next t) ∧
    (∃ t, exec (.subnVxVy 0 15) State.reset = .next t) ∧ (∃ t, exec (.shrVxVy 0 1) State.reset = .next t) ∧
    ∃ t, exec (.shlVxVy 0 1) State.reset = .next t := ⟨by decide, ⟨_, rfl⟩, ⟨_, rfl⟩, ⟨_, rfl⟩, ⟨_, rfl⟩, ⟨_, rfl⟩⟩

/-- The first and the last slot: an empty stack and 15 used slots can push, 1 and 16 used slots can pop. -/
theorem witness_CallPushesAndRetPops :
    State.reset.sp.val < 16 ∧ ({ State.reset with sp := 15 } : State).sp.val < 16 ∧
    0 < ({ State.reset with sp := 1 } : State).sp.val ∧ 0 < (fullStack State.reset).sp.val := by decide

theorem witness_StackDisciplineViolationsAreFatal :
    (fullStack State.reset).sp.val = 16 ∧ State.reset.sp.val = 0 ∧ answers (exec .cls State.reset) (fun _ => true) := by
  decide

theorem witness_ReturnUndoesCall :
    let s : State := { State.reset with sp := 15 }
    s.sp.val < 16 ∧ ∃ t w, exec (.callNnn 0x300) s = .next t ∧ exec .ret t = .next w :=
  ⟨by decide, _, _, rfl, rfl⟩

/-- The condition of each skip met and not met, with the highest key index. -/
theorem witness_SkipsMoveByOneInstruction :
    (15 : Fin 16).val = ((regs [(5, 15)]).reg 5).toNat ∧ (press 15 (regs [(5, 15)])).keyDown 15 = true ∧
    (regs [(5, 15)]).keyDown 15 = false := by decide

/-- The last sprite that fits, the empty sprite anywhere; a covered cell that is on, one that is off, one not covered. -/
theorem witness_DrawFlipsExactlyTheSpriteBits :
    InMemory 0xFF1 15 ∧ InMemory 0xFFFF 0 ∧
    (let s := bytesAt 0x300 [0x80] { regs [(0, 63), (1, 31)] with disp := Display.flip State.reset.disp 63 31 }
     InMemory s.index.toNat (1 : Nibble).toNat ∧ SpriteCovers s 0 1 1 63 31 ∧ cell s 63 31 = true ∧
     ¬ SpriteCovers s 0 1 1 62 31) ∧
    (let s := bytesAt 0x300 [0x80] (regs [(0, 63), (1, 31)])
     SpriteCovers s 0 1 1 63 31 ∧ ¬ ∃ c r, SpriteCovers s 0 1 1 c r ∧ cell s c r = true) := by
  refine ⟨.inr (by decide), .inl rfl, ⟨.inr (by decide), ⟨0, 0, by decide, by decide, by decide, by decide, by decide⟩,
    by decide, ?_⟩, ⟨0, 0, by decide, by decide, by decide, by decide, by decide⟩, ?_⟩
  · rintro ⟨row, col, -, hcol, -, hc, -⟩
    have hx : ((regs [(0, 63), (1, 31)]).reg 0).toNat = 63 := by decide
    have hcell : (62 : Nat) = (((regs [(0, 63), (1, 31)]).reg 0).toNat + col) % 64 := hc
    rw [hx] at hcell
    omega
  · rintro ⟨c, r, -, hon⟩
    have hoff : cell State.reset c r = false := by simp [cell, Display.cell, State.reset]
    exact Bool.false_ne_true (hoff.symm.trans hon)

/-- A draw over a blank display, then the same draw. -/
theorem witness_SecondDrawUndoesTheFirst :
    let s := bytesAt 0x300 [0x80] (regs [(0, 63), (1, 31)])
    InMemory s.index.toNat (1 : Nibble).toNat ∧ ∃ t u, exec (.drwVxVyN 0 1 1) s = .next t ∧ t.reg 0 = s.reg 0 ∧
      t.reg 1 = s.reg 1 ∧ exec (.drwVxVyN 0 1 1) t = .next u :=
  ⟨.inr (by decide), _, _, rfl, by decide, by decide, rfl⟩

/-- The highest key alone, the lowest of two, and none. -/
theorem witness_WaitTakesTheLowestPressedKey :
    (∀ j : Fin 16, j < 15 → (press 15 State.reset).keyDown j = false) ∧ (press 15 State.reset).keyDown 15 = true ∧
    (press 15 (press 0 State.reset)).keyDown 0 = true ∧ (∀ j : Fin 16, j < 0 → State.reset.keyDown j = false) ∧
    ∀ k : Fin 16, State.reset.keyDown k = false := by decide

theorem witness_WaitingCycleLeavesTheCoreAsItIs :
    let s := (State.reset.setPc 0xFFE).withFetchWord 16 0xF30A
    Fetches s 0xF30A ∧ Fetches (cycleThenTick s) 0xF30A ∧ decodeWord 0xF30A = some (.ldVxK 3) ∧
    ∀ k : Fin 16, s.keyDown k = false ∧ (cycleThenTick s).keyDown k = false :=
  ⟨fetches_ready.2.2.2, fetches_waiting.2.2.2, by decide, by decide⟩

/-- The sums 0xFFF and 0x1000, each policy, and the largest sum. -/
theorem witness_IndexAddFollowsItsPolicy :
    (let s := (regs [(2, 1)]).setIndex 0xFFE; s.index.toNat + (s.reg 2).toNat = 0xFFF) ∧
    (let s := (regs [(2, 2)]).setIndex 0xFFE; s.index.toNat + (s.reg 2).toNat = 0x1000 ∧ s.cfg.indexAdd = .fault) ∧
    (let s := (regs [(2, 0xFF)]).setIndex 0xFFFF; s.index.toNat + (s.reg 2).toNat = 0x100FE) ∧
    ({ State.reset with cfg := { Config.default with indexAdd := .wrap12 } } : State).cfg.indexAdd = .wrap12 ∧
    ({ State.reset with cfg := { Config.default with indexAdd := .wrap16 } } : State).cfg.indexAdd = .wrap16 := by decide

/-- The lowest and the highest place of a store: 0x050 under a protected font, 0 under a writable one, the top. -/
theorem witness_BcdStoresThreeDigits :
    Memory.wf Config.default.fontTable State.reset.mem = true ∧ StorePermitted (State.reset.setIndex 0x050) 3 ∧
    StorePermitted (State.reset.setIndex 0xFFD) 3 ∧
    StorePermitted { State.reset with cfg := { Config.default with fontWrite := .allow } } 3 :=
  ⟨rfl, ⟨by decide, by decide⟩, ⟨by decide, by decide⟩, ⟨by decide, by decide⟩⟩

theorem witness_BlockStoreCopiesTheRegisters :
    Memory.wf Config.default.fontTable State.reset.mem = true ∧
    StorePermitted (State.reset.setIndex 0xFF0) ((15 : Reg).val + 1) ∧
    StorePermitted (State.reset.setIndex 0x050) ((0 : Reg).val + 1) :=
  ⟨rfl, ⟨by decide, by decide⟩, ⟨by decide, by decide⟩⟩

theorem witness_BlockLoadCopiesTheBytes :
    InMemory (State.reset.setIndex 0xFF0).index.toNat ((15 : Reg).val + 1) ∧
    InMemory State.reset.index.toNat ((0 : Reg).val + 1) := ⟨.inr (by decide), .inr (by decide)⟩

/-- The last span inside memory, the first outside, an address above memory. -/
theorem witness_ReadCheckReportsTheFirstAddressOutside :
    0xFFF + 1 - 1 ≤ 0xFFF ∧ 0xFFF < 0xFFF + 2 - 1 ∧ 0xFFF < 0xFFFF + 1 - 1 ∧
    checkRead 0xFFF 1 = none ∧ checkRead 0xFFF 2 = some ⟨.memoryOutOfRange, 0x1000⟩ ∧ checkRead 0xFFFF 0 = none := by
  decide

theorem witness_FailedReadsAndKeysAreFatal :
    ¬ InMemory (State.reset.setIndex 0xFFF).index.toNat (2 : Nibble).toNat ∧
    ¬ InMemory (State.reset.setIndex 0xFF1).index.toNat ((15 : Reg).val + 1) ∧ 15 < ((regs [(5, 16)]).reg 5).toNat :=
  ⟨by unfold InMemory; decide, by unfold InMemory; decide, by decide⟩

/-- The first span outside and the last address inside the font, for both stores. -/
theorem witness_FailedStoresAreFatalAndWriteNothing :
    0x1000 < (State.reset.setIndex 0xFFE).index.toNat + 3 ∧
    0x1000 < (State.reset.setIndex 0xFF1).index.toNat + ((15 : Reg).val + 1) ∧
    State.reset.cfg.fontWrite = .fault ∧ (State.reset.setIndex 0x04F).index.toNat ≤ 0x04F := by decide

theorem witness_StoredWordIsWhatIsFetched :
    let s := State.reset.setIndex 0xFF0
    Memory.wf s.cfg.fontTable s.mem = true ∧ StorePermitted s ((15 : Reg).val + 1) ∧
    (∃ t, exec (.ldMemIVx 15) s = .next t) ∧ (15 : Reg) ≤ 15 ∧ (15 : Reg).val = (14 : Reg).val + 1 :=
  ⟨rfl, ⟨by decide, by decide⟩, ⟨_, rfl⟩, by decide, by decide⟩

/-- The 8XYN forms and the immediate forms of the statements that give encoding and effect. -/
theorem witness_AddRegistersSetsCarry : (0x8FF4 : Word) &&& 0xF00F = 0x8004 ∧ (3 : Reg) ≠ vf := by decide
theorem witness_LoadImmediateWritesTheByte : (0x6FFF : Word) &&& 0xF000 = 0x6000 := by decide
theorem witness_JumpSetsPcExactly : (0x1FFF : Word) &&& 0xF000 = 0x1000 := by decide
theorem witness_FlagIsWrittenAfterTheResult : (14 : Reg) ≠ vf := by decide

end Sys2Proof.Tests
end

