-- ==== Sys2Proof/Proofs/Registers.lean ====
section
/-! The state a register load and a register move answer with, and what is read back from the register file after
them (spec/10_state.md R23). -/

namespace Sys2Proof.Machine

theorem exec_ldVxNn (s : State) (x : Reg) (nn : Byte) : exec (.ldVxNn x nn) s = .next (s.setV x nn) := rfl

theorem exec_ldVxVy (s : State) (x y : Reg) : exec (.ldVxVy x y) s = .next (s.setV x (s.reg y)) := rfl

theorem State.reg_setV_self (s : State) (x : Reg) (b : Byte) : (s.setV x b).reg x = b := by simp

/-- A register that holds the byte keeps it when the byte is written to any register. -/
theorem State.reg_setV_of_reg_eq {s : State} {x : Reg} {b : Byte} (h : s.reg x = b) (y : Reg) :
    (s.setV y b).reg x = b := by
  by_cases hxy : x = y
  · subst hxy
    exact s.reg_setV_self x b
  · simp [hxy, h]

/-- Settles O31: the load writes the byte to `x`, and the move writes what `x` then holds to `y`, so that `x` keeps the
byte also when `y` is `x`. -/
theorem registerReadsBackWhatWasWritten : Obligations.RegisterReadsBackWhatWasWritten := by
  intro s x y b
  have loaded : (s.setV x b).reg x = b := s.reg_setV_self x b
  refine ⟨s.setV x b, (s.setV x b).setV y b, exec_ldVxNn s x b, loaded, ?_, State.reg_setV_self _ y b,
    State.reg_setV_of_reg_eq loaded y⟩
  rw [exec_ldVxVy, loaded]

end Sys2Proof.Machine
end

