-- ==== Sys2Proof/Proofs/Memory.lean ====
section
/-! The font lookup and the range check of a read (spec/20_memory.md R56, R57). -/

namespace Sys2Proof.Machine

theorem exec_ldFVx (s : State) (x : Reg) : exec (.ldFVx x) s = .next (s.setIndex (glyphAddress (s.reg x))) := rfl

/-- Settles O47: FX29 writes to I the glyph address of `V[x]`, which is 5 times the low nibble. -/
theorem fontLookupPointsAtTheGlyph : Obligations.FontLookupPointsAtTheGlyph := fun s x =>
  ⟨s.setIndex (glyphAddress (s.reg x)), exec_ldFVx s x, glyphAddress_toNat (s.reg x),
    frame_setIndex s (glyphAddress (s.reg x))⟩

/-- R57 names the last address of a span, `InMemory` its end: for a span that is not empty they agree. -/
theorem inMemory_iff_last_le {a n : Nat} (hn : 1 ≤ n) : InMemory a n ↔ a + n - 1 ≤ 0xFFF := by
  unfold InMemory
  omega

/-- Settles O55: a span inside memory passes; of one that leaves memory, `max a 0x1000` is an address of the span, is
outside, and lies below every other such address, as those are at least `a` and at least 0x1000. -/
theorem readCheckReportsTheFirstAddressOutside : Obligations.ReadCheckReportsTheFirstAddressOutside := by
  intro a n
  refine ⟨fun hempty => checkRead_of_inMemory (.inl hempty),
    fun hn hlast => checkRead_of_inMemory ((inMemory_iff_last_le hn).mpr hlast), fun hn hlast => ?_⟩
  have hout : ¬ InMemory a n := fun hin => Nat.not_lt.mpr ((inMemory_iff_last_le hn).mp hin) hlast
  have hbelow : max a 0x1000 < a + n := Nat.max_lt.mpr ⟨by omega, by omega⟩
  exact ⟨max a 0x1000, checkRead_of_not_inMemory hout, rfl, Nat.le_max_left a 0x1000, hbelow,
    Nat.le_max_right a 0x1000, fun c hc _ hcOut => Nat.max_le.mpr ⟨hc, hcOut⟩⟩

end Sys2Proof.Machine
end

