-- ==== Sys2Proof/Proofs/Encoding.lean ====
section
/-! The decoder selects the row a word fits (spec/30_encoding.md R114), whatever stands before it in the table. -/

namespace Sys2Proof

/-- A word that fits a row fits none of the rows before it, as no two rows overlap: the first row found is that row. -/
theorem find?_fits_of_mem {r : Row} {op : Word} (hr : r ∈ opcodeTable) (hfit : r.fits op = true) :
    opcodeTable.find? (·.fits op) = some r := by
  obtain ⟨before, after, hsplit⟩ := List.append_of_mem hr
  have hdisjoint := opcodeTable_pairwise_disjoint
  rw [hsplit, List.pairwise_append] at hdisjoint
  obtain ⟨-, -, hcross⟩ := hdisjoint
  refine List.find?_eq_some_iff_append.mpr ⟨hfit, before, after, hsplit, fun r' hr' => ?_⟩
  have hnot : ¬ r'.fits op = true := fun hfit' => by
    simp [not_fits_both (hcross r' hr' r List.mem_cons_self) op hfit'] at hfit
  simp [hnot]

/-- R114: a word with the bits a row fixes decodes to what that row reads from it. -/
theorem decodeWord_of_mem {r : Row} {op : Word} (hr : r ∈ opcodeTable) (hbits : op &&& r.mask = r.pattern) :
    decodeWord op = some (r.read op) := by
  have hfit : r.fits op = true := beq_iff_eq.mpr hbits
  rw [decodeWord, find?_fits_of_mem hr hfit, Option.map_some]

/-- Settles O5: each of the three patterns is a row of the table, so a word with its fixed bits decodes by that row. -/
theorem sourcePatternsDecode : Obligations.SourcePatternsDecode := by
  intro op
  refine ⟨fun hjump => ?_, fun hload => ?_, fun hadd => ?_⟩
  · exact decodeWord_of_mem (r := ⟨"JP_nnn", 0xF000, 0x1000, fun op => .jpNnn (nnnOf op)⟩)
      (by simp [opcodeTable, plainRows]) hjump
  · exact decodeWord_of_mem (r := ⟨"LD_Vx__nn", 0xF000, 0x6000, fun op => .ldVxNn (xOf op) (nnOf op)⟩)
      (by simp [opcodeTable, plainRows]) hload
  · exact decodeWord_of_mem (r := ⟨"ADD_Vx__Vy", 0xF00F, 0x8004, fun op => .addVxVy (xOf op) (yOf op)⟩)
      (by simp [opcodeTable, registerRows]) hadd

end Sys2Proof
end

section
/-! The fields and the only row of a word (spec/30_encoding.md R82 to R86, R114). -/

namespace Sys2Proof

theorem famOf_toNat (op : Word) : (famOf op).toNat = op.toNat / 4096 := by
  rw [famOf, BitVec.extractLsb'_toNat, Nat.shiftRight_eq_div_pow]
  omega

theorem xOf_val (op : Word) : (xOf op).val = op.toNat / 256 % 16 := by
  rw [xOf, BitVec.val_toFin, BitVec.extractLsb'_toNat, Nat.shiftRight_eq_div_pow]

theorem yOf_val (op : Word) : (yOf op).val = op.toNat / 16 % 16 := by
  rw [yOf, BitVec.val_toFin, BitVec.extractLsb'_toNat, Nat.shiftRight_eq_div_pow]

theorem nOf_toNat (op : Word) : (nOf op).toNat = op.toNat % 16 := by
  rw [nOf, BitVec.extractLsb'_toNat, Nat.shiftRight_zero]

theorem nnOf_toNat (op : Word) : (nnOf op).toNat = op.toNat % 256 := by
  rw [nnOf, BitVec.extractLsb'_toNat, Nat.shiftRight_zero]

theorem nnnOf_toNat (op : Word) : (nnnOf op).toNat = op.toNat % 4096 := by
  rw [nnnOf, BitVec.extractLsb'_toNat, Nat.shiftRight_zero]

/-- R114: a word decodes to an instruction exactly when a row of the table matches it and reads it so. -/
theorem decodeWord_eq_some_iff {op : Word} {i : Instr} :
    decodeWord op = some i ↔ ∃ r ∈ opcodeTable, op &&& r.mask = r.pattern ∧ r.read op = i := by
  constructor
  · intro hdecode
    obtain ⟨r, hfound, hread⟩ := Option.map_eq_some_iff.mp hdecode
    have hfits : r.fits op = true := List.find?_some (p := fun r : Row => r.fits op) hfound
    exact ⟨r, List.mem_of_find?_eq_some hfound, beq_iff_eq.mp hfits, hread⟩
  · rintro ⟨r, hr, hbits, rfl⟩
    exact decodeWord_of_mem hr hbits

/-- R114: at most one row matches a word, as the search of the table finds every row that does. -/
theorem row_eq_of_match {op : Word} {r₁ r₂ : Row} (h₁ : r₁ ∈ opcodeTable) (h₂ : r₂ ∈ opcodeTable)
    (hbits₁ : op &&& r₁.mask = r₁.pattern) (hbits₂ : op &&& r₂.mask = r₂.pattern) : r₁ = r₂ := by
  have hfound₁ := find?_fits_of_mem h₁ (beq_iff_eq.mpr hbits₁)
  have hfound₂ := find?_fits_of_mem h₂ (beq_iff_eq.mpr hbits₂)
  exact Option.some.inj (hfound₁.symm.trans hfound₂)

/-- Settles O3: each field is a quotient and remainder of the word's number; the rows by `decodeWord_eq_some_iff` and
`row_eq_of_match`. -/
theorem wordSelectsItsOnlyRow : Obligations.WordSelectsItsOnlyRow := fun op =>
  ⟨famOf_toNat op, xOf_val op, yOf_val op, nOf_toNat op, nnOf_toNat op, nnnOf_toNat op,
    fun _ => decodeWord_eq_some_iff,
    fun _ h₁ _ h₂ hbits₁ hbits₂ => congrArg Row.mnemonic (row_eq_of_match h₁ h₂ hbits₁ hbits₂)⟩

end Sys2Proof
end

section
/-! The cycle (spec/40_cycle.md): which components it can change, what a step answers that fetches a word, and the
waiting cycle of FX0A. -/

namespace Sys2Proof.Machine

/-! ## What the parts of a cycle leave of the core -/

theorem CoreUnchangedExcept.trans {cs ds : List Component} {s t u : State} (h₁ : CoreUnchangedExcept cs s t)
    (h₂ : CoreUnchangedExcept ds t u) : CoreUnchangedExcept (cs ++ ds) s u := fun c hc =>
  (h₁ c fun h => hc (List.mem_append_left _ h)).trans (h₂ c fun h => hc (List.mem_append_right _ h))

/-- What may have changed and has its old value again is unchanged. -/
theorem CoreUnchangedExcept.of_restored {cs : List Component} {s t : State} (h : CoreUnchangedExcept cs s t)
    (hrestored : ∀ c ∈ cs, c.Same s t) : CoreUnchangedExcept [] s t := fun c _ =>
  if hc : c ∈ cs then hrestored c hc else h c hc

/-- The session's record (result, reports, phase) is not the core's. -/
theorem core_sessionRecord (s : State) (r : Reply) (us : List UnknownReport) (p : Phase) :
    CoreUnchangedExcept [] s { s with reply := r, unknowns := us, phase := p } := fun c _ => by
  cases c <;> simp [Component.Same, State.readByte]

theorem core_concludeCycle (s : State) : CoreUnchangedExcept [] s (concludeCycle s) :=
  core_sessionRecord s _ _ _

theorem core_reportUnknown (op addr : Word) (s : State) : CoreUnchangedExcept [] s (reportUnknown op addr s) :=
  core_sessionRecord s _ _ _

theorem core_advance (s : State) : CoreUnchangedExcept [.pc] s (advance s) :=
  (frame_setPc s (s.pc + 2)).1.trans (core_sessionRecord _ _ _ .running)

/-- Besides `pc`, which the fetch advances, and HALT, which an error sets, a cycle changes only what the body of the
decoded instruction can change. -/
theorem changed_by_decoded_of_cycle {s t : State} (h : cycle s = .next t) {c : Component} (hpc : c ≠ .pc)
    (hhalt : c ≠ .halt) (hchanged : ¬ c.Same s t) :
    ∃ i, decodeWord (s.readWord s.pc.toNat) = some i ∧ c ∈ changedBy i := by
  have hadvance : c.Same s (advance s) := core_advance s c (by simpa using hpc)
  rcases cycle_cases h with ⟨e, -, rfl⟩ | ⟨-, -, rfl⟩ | ⟨-, -, i, u, hdecode, hexec, rfl⟩ | ⟨-, -, -, rfl⟩
  · exact (hchanged (core_sessionRecord s _ _ _ c List.not_mem_nil)).elim
  · have hrunning := core_sessionRecord s s.reply s.unknowns .running
    have hfault := (hrunning.trans (frame_takeFatal _ ⟨.memoryOutOfRange, max s.pc.toNat 0x1000⟩).1).trans
      (core_concludeCycle _)
    exact (hchanged (hfault c (by simpa using hhalt))).elim
  · refine ⟨i, hdecode, Decidable.byContradiction fun hnot => hchanged ?_⟩
    exact (hadvance.trans (exec_same hexec hnot hhalt)).trans (core_concludeCycle u c List.not_mem_nil)
  · exact (hchanged (hadvance.trans (core_reportUnknown _ _ _ c List.not_mem_nil))).elim

/-! ## KEY and the timers -/

theorem key_not_mem_changedBy (i : Instr) : Component.key ∉ changedBy i := by
  cases i <;> simp [changedBy]

theorem dt_mem_changedBy {i : Instr} (h : Component.dt ∈ changedBy i) : ∃ x, i = .ldDtVx x := by
  cases i <;> simp_all [changedBy]

theorem st_mem_changedBy {i : Instr} (h : Component.st ∈ changedBy i) : ∃ x, i = .ldStVx x := by
  cases i <;> simp_all [changedBy]

/-- Settles O12: the decoded instruction lists each component the cycle changed; none lists KEY, only FX15 lists DT, and
only FX18 lists ST. -/
theorem cyclesChangeTimersOnlyBySettingThem : Obligations.CyclesChangeTimersOnlyBySettingThem := by
  intro s t h
  refine ⟨Decidable.byContradiction fun hkey => ?_, fun hdt => ?_, fun hst => ?_⟩
  · obtain ⟨i, -, hlisted⟩ := changed_by_decoded_of_cycle h (c := .key) (by decide) (by decide) hkey
    exact key_not_mem_changedBy i hlisted
  · obtain ⟨i, hdecode, hlisted⟩ := changed_by_decoded_of_cycle h (c := .dt) (by decide) (by decide) hdt
    obtain ⟨x, rfl⟩ := dt_mem_changedBy hlisted
    exact ⟨x, hdecode⟩
  · obtain ⟨i, hdecode, hlisted⟩ := changed_by_decoded_of_cycle h (c := .st) (by decide) (by decide) hst
    obtain ⟨x, rfl⟩ := st_mem_changedBy hlisted
    exact ⟨x, hdecode⟩

/-! ## A step that fetches a word -/

theorem hostHasStopped_of_noUnknown {s : State} (h : s.cfg.haltOnUnknown = true → s.unknowns = []) :
    hostHasStopped s = false := by
  cases hp : s.cfg.haltOnUnknown with
  | false => simp [hostHasStopped, hp]
  | true => simp [hostHasStopped, h hp]

/-- R113 to R118: the fetched word runs its body on the advanced state, or is reported unknown. -/
theorem step_of_fetches {s : State} {op : Word} (h : Fetches s op) :
    step s = (decodeWord op).elim (.next (reportUnknown op s.pc (advance s.takeCall)))
      fun i => runBody i (advance s.takeCall) := by
  have hword : s.readWord s.pc.toNat = op := readWord_of_fetches h
  obtain ⟨hcycle, hhost, hhalt, hpc, -⟩ := h
  have hruns : hostHasStopped s.takeCall = false := hostHasStopped_of_noUnknown (by simpa using hhost)
  have hspan : checkRead s.pc.toNat 2 = none := checkRead_of_inMemory (.inr (by omega))
  rw [step_of_nextCall hcycle, answer, cycle]
  cases hdecode : decodeWord op <;> simp [hruns, hhalt, hspan, hword, hdecode]

/-- R115: a body that ends gives the cycle its result. -/
theorem runBody_of_exec {i : Instr} {s t : State} (h : exec i s = .next t) :
    runBody i s = .next (concludeCycle t) := by
  rw [runBody, h]

theorem step_of_fetches_decoded {s t : State} {op : Word} {i : Instr} (h : Fetches s op)
    (hdecode : decodeWord op = some i) (hexec : exec i (advance s.takeCall) = .next t) :
    step s = .next (concludeCycle t) := by
  rw [step_of_fetches h, hdecode, Option.elim_some, runBody_of_exec hexec]

theorem step_of_fetches_unknown {s : State} {op : Word} (h : Fetches s op) (hdecode : decodeWord op = none) :
    step s = .next (reportUnknown op s.pc (advance s.takeCall)) := by
  rw [step_of_fetches h, hdecode, Option.elim_none]

theorem concludeCycle_of_running {t : State} (h : t.halt = none) : concludeCycle t = { t with reply := .ok } := by
  rw [concludeCycle, h]

theorem concludeCycle_of_halted {t : State} {e : FatalError} (h : t.halt = some e) :
    concludeCycle t = { t with reply := .fatal e } := by
  rw [concludeCycle, h]

/-- Settles O7: the state the body runs on is `advance s.takeCall`, and `concludeCycle` gives the result by HALT. -/
theorem stepRunsTheDecodedInstruction : Obligations.StepRunsTheDecodedInstruction := by
  intro s op hfetch
  refine ⟨fun i t hdecode hexec => ?_, fun hunknown => ?_⟩
  · have hadvance : advance s.takeCall = { s.takeCall with pc := s.pc + 2, phase := .running } := by
      rw [advance, State.takeCall_pc]
    have hstep := step_of_fetches_decoded hfetch hdecode (hadvance ▸ hexec)
    exact ⟨fun hrun => concludeCycle_of_running hrun ▸ hstep, fun e hfatal => concludeCycle_of_halted hfatal ▸ hstep⟩
  · exact ⟨_, step_of_fetches_unknown hfetch hunknown, by simp⟩

/-! ## The waiting cycle -/

theorem exec_ldVxK_noKey {s : State} (x : Reg) (h : ∀ k : Fin 16, s.keyDown k = false) :
    exec (.ldVxK x) s = .next (s.setPc (s.pc - 2)) := by
  rw [exec, execLdVxK, State.lowestKey_none.mpr h]

/-- Settles O50: with no key pressed the body of FX0A takes `pc` back by the 2 the fetch advanced it, and writes nothing
else. -/
theorem waitingCycleLeavesTheCoreAsItIs : Obligations.WaitingCycleLeavesTheCoreAsItIs := by
  intro s op x hfetch hdecode hkeys
  have hnoKey : ∀ k : Fin 16, (advance s.takeCall).keyDown k = false := by simpa [State.keyDown] using hkeys
  have hstep := step_of_fetches_decoded hfetch hdecode (exec_ldVxK_noKey x hnoKey)
  obtain ⟨-, -, hhalt, -, -⟩ := hfetch
  have hpc : (concludeCycle ((advance s.takeCall).setPc ((advance s.takeCall).pc - 2))).pc = s.pc := by
    rw [concludeCycle_pc, State.setPc_pc, advance_pc, State.takeCall_pc, BitVec.add_sub_cancel]
  have hcore := (((core_takeCall s).trans (core_advance _)).trans
    (frame_setPc _ ((advance s.takeCall).pc - 2)).1).trans (core_concludeCycle _)
  refine ⟨_, hstep, ?_, hpc, hcore.of_restored fun c hc => ?_⟩
  · rw [concludeCycle_of_running (by simpa only [State.setPc_halt, advance_halt, State.takeCall_halt] using hhalt)]
  · obtain rfl : c = .pc := by simpa only [List.nil_append, List.append_nil, List.cons_append, List.mem_cons,
      List.not_mem_nil, or_false, or_self] using hc
    exact hpc

end Sys2Proof.Machine
end

section
/-! Control flow (spec/41_control_flow.md): the jump, and what every skip does in the state it leaves. -/

namespace Sys2Proof.Machine

/-! ## The jump -/

@[simp] theorem zextAddr_toNat (nnn : Addr12) : (zextAddr nnn).toNat = nnn.toNat :=
  BitVec.toNat_setWidth_of_le (by decide)

theorem exec_jpNnn (s : State) (nnn : Addr12) : exec (.jpNnn nnn) s = .next (s.setPc (zextAddr nnn)) := rfl

/-- Settles O38: the encoding is the first of the source patterns, and the body writes to `pc` the 12-bit address with
zeros above, which is the same number. -/
theorem jumpSetsPcExactly : Obligations.JumpSetsPcExactly := by
  refine ⟨fun op hjump => ?_, fun s nnn => ?_⟩
  · obtain ⟨hdecode, -, -⟩ := sourcePatternsDecode op
    exact hdecode hjump
  · exact ⟨s.setPc (zextAddr nnn), exec_jpNnn s nnn, zextAddr_toNat nnn, frame_setPc s (zextAddr nnn)⟩

/-! ## The skips -/

theorem exec_seVxNn (s : State) (x : Reg) (nn : Byte) :
    exec (.seVxNn x nn) s = .next (s.skipIf (s.reg x == nn)) := rfl

theorem exec_sneVxNn (s : State) (x : Reg) (nn : Byte) :
    exec (.sneVxNn x nn) s = .next (s.skipIf (s.reg x != nn)) := rfl

theorem exec_seVxVy (s : State) (x y : Reg) : exec (.seVxVy x y) s = .next (s.skipIf (s.reg x == s.reg y)) := rfl

theorem exec_sneVxVy (s : State) (x y : Reg) : exec (.sneVxVy x y) s = .next (s.skipIf (s.reg x != s.reg y)) := rfl

/-- A key skip whose register names the key `k` passes its check (R221) and tests `k`. -/
theorem skipOnKey_of_key {s : State} {x : Reg} {k : Fin 16} (hk : k.val = (s.reg x).toNat) (pressed : Bool) :
    skipOnKey pressed x s = .next (s.skipIf (s.keyDown k == pressed)) := by
  rw [skipOnKey, keyIndex_of_lt hk]

theorem exec_skpVx_of_key {s : State} {x : Reg} {k : Fin 16} (hk : k.val = (s.reg x).toNat) :
    exec (.skpVx x) s = .next (s.skipIf (s.keyDown k == true)) := skipOnKey_of_key hk true

theorem exec_sknpVx_of_key {s : State} {x : Reg} {k : Fin 16} (hk : k.val = (s.reg x).toNat) :
    exec (.sknpVx x) s = .next (s.skipIf (s.keyDown k == false)) := skipOnKey_of_key hk false

section

variable {i : Instr} {s : State} {c : Bool} {P : Prop} [Decidable P]

/-- An instruction that skips if `c` moves `pc` by 2 exactly when the condition `P` that `c` tests holds, and changes
nothing else (R149). -/
theorem skips_if (hexec : exec i s = .next (s.skipIf c)) (hc : c = true ↔ P) :
    ∃ t, exec i s = .next t ∧ Frame [.pc] s t ∧ t.pc = if P then s.pc + 2 else s.pc :=
  ⟨s.skipIf c, hexec, frame_skipIf s c, (State.skipIf_pc s c).trans (ite_congr (propext hc) (fun _ => rfl) fun _ => rfl)⟩

/-- `skips_if` for the instructions whose condition is the negation of `P`. -/
theorem skips_unless (hexec : exec i s = .next (s.skipIf c)) (hc : c = true ↔ ¬ P) :
    ∃ t, exec i s = .next t ∧ Frame [.pc] s t ∧ t.pc = if P then s.pc else s.pc + 2 := by
  simpa only [ite_not] using skips_if hexec hc

end

/-- Settles O42: each of the six skips if its own condition holds, and that is all it does; the key skips test the key
that V[x] names. -/
theorem skipsMoveByOneInstruction : Obligations.SkipsMoveByOneInstruction := by
  intro s x y nn
  refine ⟨skips_if (exec_seVxNn s x nn) beq_iff_eq, skips_unless (exec_sneVxNn s x nn) bne_iff_ne,
    skips_if (exec_seVxVy s x y) beq_iff_eq, skips_unless (exec_sneVxVy s x y) bne_iff_ne,
    fun k hk => ⟨skips_if (exec_skpVx_of_key hk) beq_iff_eq, skips_unless (exec_sknpVx_of_key hk) ?_⟩⟩
  rw [beq_iff_eq, Bool.not_eq_true]

end Sys2Proof.Machine
end

section
/-! Arithmetic (spec/42_arithmetic.md): the immediate load, and what every instruction that writes a result and a flag
does in the state it leaves. -/

namespace Sys2Proof.Machine

/-! ## The immediate load -/

/-- Settles O30: the encoding is the second of the source patterns, and the body writes the byte to `x`, whichever
register that is. -/
theorem loadImmediateWritesTheByte : Obligations.LoadImmediateWritesTheByte := by
  refine ⟨fun op hload => ?_, fun s x nn => ?_⟩
  · obtain ⟨-, hdecode, -⟩ := sourcePatternsDecode op
    exact hdecode hload
  · exact ⟨s.setV x nn, exec_ldVxNn s x nn, s.reg_setV_self x nn, regsUnchanged_setV s x nn, frame_setV s x nn⟩

/-! ## The state each result-and-flag instruction answers with -/

theorem exec_addVxVy (s : State) (x y : Reg) : exec (.addVxVy x y) s =
    .next (s.setResultAndFlag x (s.reg x + s.reg y) (carry (s.reg x) (s.reg y))) := rfl

theorem exec_subVxVy (s : State) (x y : Reg) : exec (.subVxVy x y) s =
    .next (s.setResultAndFlag x (s.reg x - s.reg y) (noBorrow (s.reg x) (s.reg y))) := rfl

theorem exec_subnVxVy (s : State) (x y : Reg) : exec (.subnVxVy x y) s =
    .next (s.setResultAndFlag x (s.reg y - s.reg x) (noBorrow (s.reg y) (s.reg x))) := rfl

theorem exec_shrVxVy (s : State) (x y : Reg) : exec (.shrVxVy x y) s =
    .next (s.setResultAndFlag x (s.reg x >>> 1) (shiftedOutRight (s.reg x))) := rfl

theorem exec_shlVxVy (s : State) (x y : Reg) : exec (.shlVxVy x y) s =
    .next (s.setResultAndFlag x (s.reg x <<< 1) (shiftedOutLeft (s.reg x))) := rfl

/-! ## Results and flags as numbers -/

theorem carry_toNat (a b : Byte) : (if carry a b then 1 else 0) = if a.toNat + b.toNat > 255 then 1 else 0 := by
  simp only [carry, decide_eq_true_eq]

theorem noBorrow_toNat (a b : Byte) : (if noBorrow a b then 1 else 0) = if a.toNat ≥ b.toNat then 1 else 0 := by
  simp only [noBorrow, decide_eq_true_eq]

/-- A difference of bytes, with the subtraction after the addition, so that it is exact on naturals. -/
theorem sub_toNat (a b : Byte) : (a - b).toNat = (a.toNat + 256 - b.toNat) % 256 := by
  rw [BitVec.toNat_sub', ← Nat.add_sub_assoc (Nat.le_of_lt b.isLt)]

theorem ushiftRight_one_toNat (a : Byte) : (a >>> 1).toNat = a.toNat / 2 := by
  rw [BitVec.toNat_ushiftRight, Nat.shiftRight_eq_div_pow, Nat.pow_one]

theorem shiftLeft_one_toNat (a : Byte) : (a <<< 1).toNat = a.toNat * 2 % 256 := by
  rw [BitVec.toNat_shiftLeft, Nat.shiftLeft_eq, Nat.pow_one]

/-! ## The result, and then the flag -/

section

variable {i : Instr} {s : State} {x : Reg} {r : Byte} {f : Bool} {result flag : Nat}

/-- An instruction that writes a result to `x` and then a flag leaves the flag in VF whatever `x` is, the result in
every other `x`, and nothing else changed (R171). -/
theorem writes_result_then_flag (hexec : exec i s = .next (s.setResultAndFlag x r f))
    (hflag : (if f then 1 else 0) = flag) :
    ∃ t, exec i s = .next t ∧ (x ≠ vf → t.reg x = r) ∧ (t.reg vf).toNat = flag ∧
      RegsUnchangedExcept [x, vf] s t ∧ Frame [.v] s t := by
  refine ⟨s.setResultAndFlag x r f, hexec, fun hx => ?_, ?_, regsUnchanged_setResultAndFlag s x r f,
    frame_setResultAndFlag s x r f⟩
  · rw [State.reg_setResultAndFlag, if_neg hx, if_pos rfl]
  · rw [State.reg_setResultAndFlag, if_pos rfl, flagByte_toNat, hflag]

/-- `writes_result_then_flag` with the result, too, as a number. -/
theorem writes_resultNat_then_flag (hexec : exec i s = .next (s.setResultAndFlag x r f)) (hresult : r.toNat = result)
    (hflag : (if f then 1 else 0) = flag) :
    ∃ t, exec i s = .next t ∧ (x ≠ vf → (t.reg x).toNat = result) ∧ (t.reg vf).toNat = flag ∧
      RegsUnchangedExcept [x, vf] s t ∧ Frame [.v] s t := by
  obtain ⟨t, hnext, hreg, hrest⟩ := writes_result_then_flag hexec hflag
  exact ⟨t, hnext, fun hx => hreg hx ▸ hresult, hrest⟩

end

/-- Settles O34: each of the five writes its result and then its flag, both computed from the registers of `s`. -/
theorem flagIsWrittenAfterTheResult : Obligations.FlagIsWrittenAfterTheResult := fun s x y =>
  ⟨writes_result_then_flag (exec_addVxVy s x y) (carry_toNat _ _),
    writes_resultNat_then_flag (exec_subVxVy s x y) (sub_toNat _ _) (noBorrow_toNat _ _),
    writes_resultNat_then_flag (exec_subnVxVy s x y) (sub_toNat _ _) (noBorrow_toNat _ _),
    writes_resultNat_then_flag (exec_shrVxVy s x y) (ushiftRight_one_toNat _) (shiftedOutRight_toNat _),
    writes_resultNat_then_flag (exec_shlVxVy s x y) (shiftLeft_one_toNat _) (shiftedOutLeft_toNat _)⟩

/-- Settles O33: the encoding is the third of the source patterns, and the body writes the wrapped sum and then the
carry. -/
theorem addRegistersSetsCarry : Obligations.AddRegistersSetsCarry := by
  refine ⟨fun op hadd => ?_, fun s x y => ?_⟩
  · obtain ⟨-, -, hdecode⟩ := sourcePatternsDecode op
    exact hdecode hadd
  · exact writes_resultNat_then_flag (exec_addVxVy s x y) (BitVec.toNat_add _ _) (carry_toNat _ _)

end Sys2Proof.Machine
end

section
/-! The host's calls (spec/60_exceptions.md R276 to R283): what each call besides Cycle and Reset leaves of the core, the
keys and the display snapshot. -/

namespace Sys2Proof.Machine

/-! ## What a call leaves of the core -/

theorem core_setKey (k : Fin 16) (b : Bool) (s : State) : CoreUnchangedExcept [.key] s (setKey k b s) := fun c hc => by
  cases c <;> simp_all [Component.Same, setKey, State.readByte]

theorem core_readDisplay (s : State) : CoreUnchangedExcept [] s (readDisplay s) :=
  core_sessionRecord s _ _ _

theorem core_ackDisplay (s : State) : CoreUnchangedExcept [.dirty] s (ackDisplay s) := fun c hc => by
  cases c <;> simp_all [Component.Same, ackDisplay, State.readByte]

theorem core_tick (s : State) : CoreUnchangedExcept [.dt, .st] s (tick s) := by
  unfold tick
  split
  · have hcounted := ((frame_setDt s (countDown s.dt)).trans (frame_setSt _ (countDown s.st))).1
    exact hcounted.trans (core_sessionRecord _ _ _ _)
  · exact fun c _ => core_sessionRecord s _ _ _ c List.not_mem_nil

theorem core_load {bytes : List Byte} {s t : State} (h : load bytes s = .next t) : CoreUnchangedExcept [.mem] s t := by
  unfold load at h
  split at h
  · split at h <;> cases h
    · exact (frame_writeBytes s 0x200 bytes).1.trans (core_sessionRecord _ _ _ _)
    · exact fun c _ => core_sessionRecord s _ _ _ c List.not_mem_nil
  · cases h

/-- Answering a call also takes it from the host's schedule, which is not the core's. -/
theorem CoreUnchangedExcept.of_takeCall {cs : List Component} {s t : State}
    (h : CoreUnchangedExcept cs s.takeCall t) : CoreUnchangedExcept cs s t :=
  (core_takeCall s).trans h

/-! ## The display -/

/-- Settles O24: the answer's only write is the result, and it is the display and the dirty signal of `s`, which taking
the call keeps. -/
theorem readDisplayReturnsTheDisplay : Obligations.ReadDisplayReturnsTheDisplay := by
  intro s hcall
  refine ⟨readDisplay s.takeCall, step_of_nextCall hcall, (core_readDisplay s.takeCall).of_takeCall, ?_⟩
  rw [readDisplay, State.takeCall_disp, State.takeCall_dirty]

/-! ## The keys -/

theorem State.keyDown_takeCall (s : State) (k : Fin 16) : s.takeCall.keyDown k = s.keyDown k := by
  rw [State.keyDown, State.takeCall_key, State.keyDown]

/-- KEY is written by SetKey and Reset alone (R280, R300): it is outside what every other call can change. -/
theorem setKey_or_reset_of_key_changed {c : Call} {s t : State} (h : answer c s = .next t) (hkey : t.key ≠ s.key) :
    (∃ k b, c = .setKey k b) ∨ c = .reset := by
  cases c with
  | setKey k b => exact .inl ⟨k, b, rfl⟩
  | reset => exact .inr rfl
  | load bytes => exact absurd (core_load h .key (by decide)) hkey
  | cycle =>
    obtain ⟨hkept, -, -⟩ := cyclesChangeTimersOnlyBySettingThem s t h
    exact absurd hkept hkey
  | tick =>
    cases h
    exact absurd (core_tick s .key (by decide)) hkey
  | readDisplay =>
    cases h
    exact absurd (core_readDisplay s .key (by decide)) hkey
  | ackDisplay =>
    cases h
    exact absurd (core_ackDisplay s .key (by decide)) hkey

/-- Settles O23: SetKey writes one entry of KEY; a call that changed KEY is one of the two that can. -/
theorem setKeyIsTheOnlyWriterOfKeys : Obligations.SetKeyIsTheOnlyWriterOfKeys := by
  refine ⟨fun s k b hcall => ?_, fun s t hstep hkey => ?_⟩
  · refine ⟨setKey k b s.takeCall, step_of_nextCall hcall, (core_setKey k b s.takeCall).of_takeCall, ?_, fun j hj => ?_⟩
    · rw [State.keyDown_setKey, if_pos rfl]
    · rw [State.keyDown_setKey, if_neg hj, State.keyDown_takeCall]
  · have hanswer : answer (nextCall s) s.takeCall = .next t := (step_of_nextCall rfl).symm.trans hstep
    exact setKey_or_reset_of_key_changed hanswer (by rwa [State.takeCall_key])

end Sys2Proof.Machine
end

section
/-! The decoder and the encoder are inverse to each other, and the words that no row fits (spec/30_encoding.md sections
3 and 4). -/

namespace Sys2Proof

/-! ## Decoding what was encoded -/

theorem fitsOwnRow : ∀ i : Instr, Laws.FitsOwnRow.Statement i
  | .cls => Laws.FitsOwnRow.cls
  | .ret => Laws.FitsOwnRow.ret
  | .jpNnn nnn => Laws.FitsOwnRow.jpNnn nnn
  | .callNnn nnn => Laws.FitsOwnRow.callNnn nnn
  | .seVxNn x nn => Laws.FitsOwnRow.seVxNn x nn
  | .sneVxNn x nn => Laws.FitsOwnRow.sneVxNn x nn
  | .seVxVy x y => Laws.FitsOwnRow.seVxVy x y
  | .ldVxNn x nn => Laws.FitsOwnRow.ldVxNn x nn
  | .addVxNn x nn => Laws.FitsOwnRow.addVxNn x nn
  | .ldVxVy x y => Laws.FitsOwnRow.ldVxVy x y
  | .orVxVy x y => Laws.FitsOwnRow.orVxVy x y
  | .andVxVy x y => Laws.FitsOwnRow.andVxVy x y
  | .xorVxVy x y => Laws.FitsOwnRow.xorVxVy x y
  | .addVxVy x y => Laws.FitsOwnRow.addVxVy x y
  | .subVxVy x y => Laws.FitsOwnRow.subVxVy x y
  | .shrVxVy x y => Laws.FitsOwnRow.shrVxVy x y
  | .subnVxVy x y => Laws.FitsOwnRow.subnVxVy x y
  | .shlVxVy x y => Laws.FitsOwnRow.shlVxVy x y
  | .sneVxVy x y => Laws.FitsOwnRow.sneVxVy x y
  | .ldINnn nnn => Laws.FitsOwnRow.ldINnn nnn
  | .jpV0Nnn nnn => Laws.FitsOwnRow.jpV0Nnn nnn
  | .rndVxNn x nn => Laws.FitsOwnRow.rndVxNn x nn
  | .drwVxVyN x y n => Laws.FitsOwnRow.drwVxVyN x y n
  | .skpVx x => Laws.FitsOwnRow.skpVx x
  | .sknpVx x => Laws.FitsOwnRow.sknpVx x
  | .ldVxDt x => Laws.FitsOwnRow.ldVxDt x
  | .ldVxK x => Laws.FitsOwnRow.ldVxK x
  | .ldDtVx x => Laws.FitsOwnRow.ldDtVx x
  | .ldStVx x => Laws.FitsOwnRow.ldStVx x
  | .addIVx x => Laws.FitsOwnRow.addIVx x
  | .ldFVx x => Laws.FitsOwnRow.ldFVx x
  | .ldBVx x => Laws.FitsOwnRow.ldBVx x
  | .ldMemIVx x => Laws.FitsOwnRow.ldMemIVx x
  | .ldVxMemI x => Laws.FitsOwnRow.ldVxMemI x

theorem decodeWord_encode (i : Instr) : decodeWord (encode i) = some i := by
  obtain ⟨r, hr, hfits, hread⟩ := fitsOwnRow i
  exact decodeWord_eq_some_iff.mpr ⟨r, hr, beq_iff_eq.mp hfits, hread⟩

/-- The two bytes of a word, high byte first, make up the word (R51). -/
theorem wordOfBytes_extract (op : Word) : wordOfBytes (op.extractLsb' 8 8) (op.extractLsb' 0 8) = op :=
  (BitVec.eq_of_toNat_eq (by
    rw [wordOfBytes, BitVec.toNat_append, BitVec.extractLsb'_toNat, BitVec.extractLsb'_toNat, Nat.shiftRight_zero,
      ← Nat.shiftLeft_add_eq_or_of_lt (Nat.mod_lt _ (by decide)), Nat.shiftLeft_eq, Nat.shiftRight_eq_div_pow]
    omega))

theorem decode_bytesOfWord {op : Word} {i : Instr} (h : decodeWord op = some i) (rest : List Byte) :
    decode (bytesOfWord op ++ rest) = .ok (i, rest) := by
  simp only [bytesOfWord, List.cons_append, List.nil_append, decode, wordOfBytes_extract, h]

/-- Settles O1: the instruction's word fits a row that reads the instruction back (`fitsOwnRow`), and the two bytes of a
word are the word again. -/
theorem decodeInvertsEncode : Obligations.DecodeInvertsEncode := fun i rest =>
  ⟨decodeWord_encode i, decode_bytesOfWord (decodeWord_encode i) rest⟩

end Sys2Proof
end

section
/-! A word that decodes is the encoding of what it decodes to: no row reads its instruction from a word and drops a bit
(spec/30_encoding.md R87, R88). -/

namespace Sys2Proof

/-! ## A word is made of its fields -/

theorem toNat_append_eq_add {m n : Nat} (a : BitVec m) (b : BitVec n) :
    (a ++ b).toNat = a.toNat * 2 ^ n + b.toNat := by
  rw [BitVec.toNat_append, ← Nat.shiftLeft_add_eq_or_of_lt b.isLt, Nat.shiftLeft_eq]

theorem regField_toNat (x : Reg) : (regField x).toNat = x.val := rfl

theorem formatNnn_toNat (f : Nibble) (nnn : Addr12) : (formatNnn f nnn).toNat = f.toNat * 4096 + nnn.toNat :=
  toNat_append_eq_add f nnn

theorem formatXnn_toNat (f : Nibble) (x : Reg) (nn : Byte) :
    (formatXnn f x nn).toNat = f.toNat * 4096 + x.val * 256 + nn.toNat := by
  rw [formatXnn, toNat_append_eq_add, toNat_append_eq_add, regField_toNat]
  omega

theorem formatXyn_toNat (f : Nibble) (x y : Reg) (n : Nibble) :
    (formatXyn f x y n).toNat = f.toNat * 4096 + x.val * 256 + y.val * 16 + n.toNat := by
  rw [formatXyn, toNat_append_eq_add, toNat_append_eq_add, toNat_append_eq_add, regField_toNat, regField_toNat]
  omega

theorem formatNnn_fields (op : Word) : formatNnn (famOf op) (nnnOf op) = op :=
  BitVec.eq_of_toNat_eq (by
    rw [formatNnn_toNat, famOf_toNat, nnnOf_toNat]
    omega)

theorem formatXnn_fields (op : Word) : formatXnn (famOf op) (xOf op) (nnOf op) = op :=
  BitVec.eq_of_toNat_eq (by
    rw [formatXnn_toNat, famOf_toNat, nnOf_toNat, xOf_val]
    omega)

theorem formatXyn_fields (op : Word) : formatXyn (famOf op) (xOf op) (yOf op) (nOf op) = op :=
  BitVec.eq_of_toNat_eq (by
    rw [formatXyn_toNat, famOf_toNat, nOf_toNat, xOf_val, yOf_val]
    omega)

/-! ## The bits a row fixes, as fields of the word -/

theorem and_family (op : Word) : op &&& 0xF000 = formatNnn (famOf op) 0 := by
  calc op &&& 0xF000
    _ = formatNnn (famOf op) (nnnOf op) &&& 0xF000 := by rw [formatNnn_fields]
    _ = formatNnn (famOf op) 0 := formatNnn_fixed _ _

theorem and_family_byte (op : Word) : op &&& 0xF0FF = formatXnn (famOf op) 0 (nnOf op) := by
  calc op &&& 0xF0FF
    _ = formatXnn (famOf op) (xOf op) (nnOf op) &&& 0xF0FF := by rw [formatXnn_fields]
    _ = formatXnn (famOf op) 0 (nnOf op) := formatX_fixed _ _ _

theorem and_family_nibble (op : Word) : op &&& 0xF00F = formatXyn (famOf op) 0 0 (nOf op) := by
  calc op &&& 0xF00F
    _ = formatXyn (famOf op) (xOf op) (yOf op) (nOf op) &&& 0xF00F := by rw [formatXyn_fields]
    _ = formatXyn (famOf op) 0 0 (nOf op) := formatXy_fixed _ _ _ _

theorem famOf_formatNnn (f : Nibble) (nnn : Addr12) : famOf (formatNnn f nnn) = f :=
  BitVec.eq_of_toNat_eq (by
    rw [famOf_toNat, formatNnn_toNat]
    omega)

theorem famOf_formatXnn (f : Nibble) (x : Reg) (nn : Byte) : famOf (formatXnn f x nn) = f :=
  BitVec.eq_of_toNat_eq (by
    rw [famOf_toNat, formatXnn_toNat]
    omega)

theorem famOf_formatXyn (f : Nibble) (x y : Reg) (n : Nibble) : famOf (formatXyn f x y n) = f :=
  BitVec.eq_of_toNat_eq (by
    rw [famOf_toNat, formatXyn_toNat]
    omega)

/-- A row with the mask 0xF000 fixes the family and nothing else. -/
theorem and_family_eq_iff {op : Word} {f : Nibble} : op &&& 0xF000 = formatNnn f 0 ↔ famOf op = f := by
  rw [and_family]
  refine ⟨fun h => ?_, fun h => by rw [h]⟩
  rw [← famOf_formatNnn (famOf op) 0, h, famOf_formatNnn]

/-- A row with the mask 0xF0FF fixes the family and the low byte. -/
theorem and_family_byte_eq_iff {op : Word} {f : Nibble} {nn : Byte} :
    op &&& 0xF0FF = formatXnn f 0 nn ↔ famOf op = f ∧ nnOf op = nn := by
  rw [and_family_byte]
  refine ⟨fun h => ⟨?_, ?_⟩, fun ⟨hf, hn⟩ => by rw [hf, hn]⟩
  · rw [← famOf_formatXnn (famOf op) 0 (nnOf op), h, famOf_formatXnn]
  · rw [← nnOf_formatXnn (famOf op) 0 (nnOf op), h, nnOf_formatXnn]

/-- A row with the mask 0xF00F fixes the family and the low nibble. -/
theorem and_family_nibble_eq_iff {op : Word} {f n : Nibble} :
    op &&& 0xF00F = formatXyn f 0 0 n ↔ famOf op = f ∧ nOf op = n := by
  rw [and_family_nibble]
  refine ⟨fun h => ⟨?_, ?_⟩, fun ⟨hf, hn⟩ => by rw [hf, hn]⟩
  · rw [← famOf_formatXyn (famOf op) 0 0 (nOf op), h, famOf_formatXyn]
  · rw [← nOf_formatXyn (famOf op) 0 0 (nOf op), h, nOf_formatXyn]

/-! ## A word with a row's bits is the format filled with its own fields -/

theorem formatNnn_of_bits {op : Word} {f : Nibble} (h : op &&& 0xF000 = formatNnn f 0) :
    formatNnn f (nnnOf op) = op := by
  rw [← and_family_eq_iff.mp h, formatNnn_fields]

theorem formatXnn_of_bits {op : Word} {f : Nibble} (h : op &&& 0xF000 = formatNnn f 0) :
    formatXnn f (xOf op) (nnOf op) = op := by
  rw [← and_family_eq_iff.mp h, formatXnn_fields]

theorem formatXyn_of_bits {op : Word} {f : Nibble} (h : op &&& 0xF000 = formatNnn f 0) :
    formatXyn f (xOf op) (yOf op) (nOf op) = op := by
  rw [← and_family_eq_iff.mp h, formatXyn_fields]

theorem formatX_of_bits {op : Word} {f : Nibble} {nn : Byte} (h : op &&& 0xF0FF = formatXnn f 0 nn) :
    formatXnn f (xOf op) nn = op := by
  obtain ⟨hf, hnn⟩ := and_family_byte_eq_iff.mp h
  rw [← hf, ← hnn, formatXnn_fields]

theorem formatXy_of_bits {op : Word} {f n : Nibble} (h : op &&& 0xF00F = formatXyn f 0 0 n) :
    formatXyn f (xOf op) (yOf op) n = op := by
  obtain ⟨hf, hn⟩ := and_family_nibble_eq_iff.mp h
  rw [← hf, ← hn, formatXyn_fields]

/-! ## Every row reads all the bits of its word -/

/-- Whatever word matches the row is the encoding of what the row reads from it. -/
def Row.ReadsEveryBit (r : Row) : Prop := ∀ op : Word, op &&& r.mask = r.pattern → encode (r.read op) = op

theorem plainRows_readEveryBit : ∀ r ∈ plainRows, r.ReadsEveryBit := by
  have word {op p : Word} (h : op &&& 0xFFFF = p) : p = op := by rw [← h]; exact BitVec.and_allOnes
  simp only [plainRows, List.forall_mem_cons]
  exact ⟨fun _ h => word h, fun _ h => word h, fun _ h => formatNnn_of_bits h, fun _ h => formatNnn_of_bits h,
    fun _ h => formatXnn_of_bits h, fun _ h => formatXnn_of_bits h, fun _ h => formatXy_of_bits h,
    fun _ h => formatXnn_of_bits h, fun _ h => formatXnn_of_bits h, fun _ h => formatXy_of_bits h,
    fun _ h => formatNnn_of_bits h, fun _ h => formatNnn_of_bits h, fun _ h => formatXnn_of_bits h,
    fun _ h => formatXyn_of_bits h, List.forall_mem_nil _⟩

theorem registerRows_readEveryBit : ∀ r ∈ registerRows, r.ReadsEveryBit := by
  simp only [registerRows, List.forall_mem_cons]
  exact ⟨fun _ h => formatXy_of_bits h, fun _ h => formatXy_of_bits h, fun _ h => formatXy_of_bits h,
    fun _ h => formatXy_of_bits h, fun _ h => formatXy_of_bits h, fun _ h => formatXy_of_bits h,
    fun _ h => formatXy_of_bits h, fun _ h => formatXy_of_bits h, fun _ h => formatXy_of_bits h, List.forall_mem_nil _⟩

theorem selectedRows_readEveryBit : ∀ r ∈ selectedRows, r.ReadsEveryBit := by
  simp only [selectedRows, List.forall_mem_cons]
  exact ⟨fun _ h => formatX_of_bits h, fun _ h => formatX_of_bits h, fun _ h => formatX_of_bits h,
    fun _ h => formatX_of_bits h, fun _ h => formatX_of_bits h, fun _ h => formatX_of_bits h,
    fun _ h => formatX_of_bits h, fun _ h => formatX_of_bits h, fun _ h => formatX_of_bits h,
    fun _ h => formatX_of_bits h, fun _ h => formatX_of_bits h, List.forall_mem_nil _⟩

theorem opcodeTable_readsEveryBit : ∀ r ∈ opcodeTable, r.ReadsEveryBit := by
  simp only [opcodeTable, List.forall_mem_append]
  exact ⟨⟨plainRows_readEveryBit, registerRows_readEveryBit⟩, selectedRows_readEveryBit⟩

/-- Settles O2: the row that matches the word reads every bit of it. -/
theorem decodedWordIsItsEncoding : Obligations.DecodedWordIsItsEncoding := by
  intro op i hdecode
  obtain ⟨r, hr, hbits, rfl⟩ := decodeWord_eq_some_iff.mp hdecode
  exact opcodeTable_readsEveryBit r hr op hbits

end Sys2Proof
end

section
/-! The words that are written out from the formats, and the words that no row fits (spec/30_encoding.md R87, R92). -/

namespace Sys2Proof

/-- Settles O6: each word is the encoding of its instruction, so it decodes to it. -/
theorem writtenOutWordsDecode : Obligations.WrittenOutWordsDecode :=
  ⟨decodeWord_encode .cls, decodeWord_encode (.callNnn 0x300), decodeWord_encode (.ldVxNn 1 3),
    decodeWord_encode (.addVxVy 0 1), decodeWord_encode (.drwVxVyN 2 10 5), decodeWord_encode (.skpVx 5),
    decodeWord_encode (.ldVxMemI 4)⟩

theorem decodeWord_eq_none_iff {op : Word} :
    decodeWord op = none ↔ ∀ r ∈ opcodeTable, ¬ r.fits op = true := by
  rw [decodeWord, Option.map_eq_none_iff, List.find?_eq_none]

/-! ## The words a row fits, as numbers -/

theorem fits_word_iff {op p : Word} {m : String} {f : Word → Instr} :
    Row.fits ⟨m, 0xFFFF, p, f⟩ op = true ↔ op.toNat = p.toNat := by
  rw [Row.fits, beq_iff_eq, show op &&& 0xFFFF = op from BitVec.and_allOnes, BitVec.toNat_inj]

theorem fits_family_iff {op p : Word} {m : String} {f : Word → Instr} :
    Row.fits ⟨m, 0xF000, p, f⟩ op = true ↔ op.toNat / 4096 * 4096 = p.toNat := by
  rw [Row.fits, beq_iff_eq, and_family, ← BitVec.toNat_inj, formatNnn_toNat, famOf_toNat]
  simp

theorem fits_family_byte_iff {op p : Word} {m : String} {f : Word → Instr} :
    Row.fits ⟨m, 0xF0FF, p, f⟩ op = true ↔ op.toNat / 4096 * 4096 + op.toNat % 256 = p.toNat := by
  rw [Row.fits, beq_iff_eq, and_family_byte, ← BitVec.toNat_inj, formatXnn_toNat, famOf_toNat, nnOf_toNat]
  simp

theorem fits_family_nibble_iff {op p : Word} {m : String} {f : Word → Instr} :
    Row.fits ⟨m, 0xF00F, p, f⟩ op = true ↔ op.toNat / 4096 * 4096 + op.toNat % 16 = p.toNat := by
  rw [Row.fits, beq_iff_eq, and_family_nibble, ← BitVec.toNat_inj, formatXyn_toNat, famOf_toNat, nOf_toNat]
  simp

/-! ## The words each part of the table leaves out -/

theorem no_plainRow_fits_iff {op : Word} : (∀ r ∈ plainRows, ¬ r.fits op = true) ↔
    op.toNat / 4096 ∉ [1, 2, 3, 4, 6, 7, 0xA, 0xB, 0xC, 0xD] ∧ op.toNat ≠ 0xE0 ∧ op.toNat ≠ 0xEE ∧
    (op.toNat / 4096 = 5 → op.toNat % 16 ≠ 0) ∧ (op.toNat / 4096 = 9 → op.toNat % 16 ≠ 0) := by
  simp only [plainRows, List.forall_mem_cons, fits_word_iff, fits_family_iff, fits_family_nibble_iff]
  simp only [BitVec.ofNat_eq_ofNat, BitVec.reduceToNat, List.mem_cons, List.not_mem_nil, false_implies, implies_true,
    and_true, or_false, not_or]
  omega

theorem no_registerRow_fits_iff {op : Word} : (∀ r ∈ registerRows, ¬ r.fits op = true) ↔
    (op.toNat / 4096 = 8 → op.toNat % 16 ∉ [0, 1, 2, 3, 4, 5, 6, 7, 0xE]) := by
  simp only [registerRows, List.forall_mem_cons, fits_family_nibble_iff]
  simp only [BitVec.ofNat_eq_ofNat, BitVec.reduceToNat, List.mem_cons, List.not_mem_nil, false_implies, implies_true,
    and_true, or_false, not_or]
  omega

theorem no_selectedRow_fits_iff {op : Word} : (∀ r ∈ selectedRows, ¬ r.fits op = true) ↔
    (op.toNat / 4096 = 0xE → op.toNat % 256 ∉ [0x9E, 0xA1]) ∧
    (op.toNat / 4096 = 0xF → op.toNat % 256 ∉ [0x07, 0x0A, 0x15, 0x18, 0x1E, 0x29, 0x33, 0x55, 0x65]) := by
  simp only [selectedRows, List.forall_mem_cons, fits_family_byte_iff]
  simp only [BitVec.ofNat_eq_ofNat, BitVec.reduceToNat, List.mem_cons, List.not_mem_nil, false_implies, implies_true,
    and_true, or_false, not_or]
  omega

/-- Settles O4: each part of the table leaves out what it names; the families are then taken one by one. -/
theorem unknownWordsAreExactlyTheListed : Obligations.UnknownWordsAreExactlyTheListed := by
  intro op
  rw [decodeWord_eq_none_iff]
  simp only [opcodeTable, List.forall_mem_append, no_plainRow_fits_iff, no_registerRow_fits_iff,
    no_selectedRow_fits_iff, ne_eq, ← BitVec.toNat_inj, BitVec.reduceToNat]
  generalize hfamily : op.toNat / 4096 = family
  have hsmall : family < 16 := by
    have := op.isLt
    omega
  have hzero : op.toNat < 0x1000 ↔ family = 0 := by omega
  rw [hzero]
  have hcases : family = 0 ∨ family = 1 ∨ family = 2 ∨ family = 3 ∨ family = 4 ∨ family = 5 ∨ family = 6 ∨ family = 7 ∨
      family = 8 ∨ family = 9 ∨ family = 10 ∨ family = 11 ∨ family = 12 ∨ family = 13 ∨ family = 14 ∨ family = 15 := by
    omega
  rcases hcases with rfl | rfl | rfl | rfl | rfl | rfl | rfl | rfl | rfl | rfl | rfl | rfl | rfl | rfl | rfl | rfl <;>
    simp <;> omega

end Sys2Proof
end

section
/-! Moves, logic, the random draw, and what result and flag make together (spec/42_arithmetic.md R173 to R190). -/

namespace Sys2Proof.Machine

/-! ## The state each instruction answers with -/

theorem exec_addVxNn (s : State) (x : Reg) (nn : Byte) :
    exec (.addVxNn x nn) s = .next (s.setV x (s.reg x + nn)) := rfl

theorem exec_orVxVy (s : State) (x y : Reg) :
    exec (.orVxVy x y) s = .next (s.setV x (s.reg x ||| s.reg y)) := rfl

theorem exec_andVxVy (s : State) (x y : Reg) :
    exec (.andVxVy x y) s = .next (s.setV x (s.reg x &&& s.reg y)) := rfl

theorem exec_xorVxVy (s : State) (x y : Reg) :
    exec (.xorVxVy x y) s = .next (s.setV x (s.reg x ^^^ s.reg y)) := rfl

theorem exec_rndVxNn (s : State) (x : Reg) (nn : Byte) :
    exec (.rndVxNn x nn) s = .next (s.countDraw.setV x (s.nextRandom &&& nn)) := rfl

/-! ## One destination -/

/-- An instruction that writes one register leaves the byte there and nothing else changed. -/
theorem writes_register {i : Instr} {s : State} {x : Reg} {b : Byte} (hexec : exec i s = .next (s.setV x b)) :
    ∃ t, exec i s = .next t ∧ t.reg x = b ∧ RegsUnchangedExcept [x] s t ∧ Frame [.v] s t :=
  ⟨s.setV x b, hexec, s.reg_setV_self x b, regsUnchanged_setV s x b, frame_setV s x b⟩

/-- `writes_register` for a property of the byte that is written. -/
theorem writes_register_with {i : Instr} {s : State} {x : Reg} {b : Byte} {P : Byte → Prop}
    (hexec : exec i s = .next (s.setV x b)) (hb : P b) :
    ∃ t, exec i s = .next t ∧ P (t.reg x) ∧ RegsUnchangedExcept [x] s t ∧ Frame [.v] s t := by
  obtain ⟨t, hnext, hreg, hrest⟩ := writes_register hexec
  exact ⟨t, hnext, hreg.symm ▸ hb, hrest⟩

/-- Settles O32: each of the five writes one register; what it writes is the wrapped sum, the source, or the result of
the logic operation bit by bit. -/
theorem movesAndLogicWriteOnlyTheDestination : Obligations.MovesAndLogicWriteOnlyTheDestination := fun s x y nn =>
  ⟨writes_register_with (P := fun b => b.toNat = ((s.reg x).toNat + nn.toNat) % 256) (exec_addVxNn s x nn)
      (BitVec.toNat_add _ _),
    writes_register (exec_ldVxVy s x y),
    writes_register_with (P := fun b => ∀ j, b.getLsbD j = ((s.reg x).getLsbD j || (s.reg y).getLsbD j))
      (exec_orVxVy s x y) fun _ => BitVec.getLsbD_or,
    writes_register_with (P := fun b => ∀ j, b.getLsbD j = ((s.reg x).getLsbD j && (s.reg y).getLsbD j))
      (exec_andVxVy s x y) fun _ => BitVec.getLsbD_and,
    writes_register_with (P := fun b => ∀ j, b.getLsbD j = ((s.reg x).getLsbD j != (s.reg y).getLsbD j))
      (exec_xorVxVy s x y) fun _ => BitVec.getLsbD_xor⟩

/-! ## The random draw -/

/-- Settles O36: the count of draws moves, and then the masked byte is written to `x`; a zero mask leaves a zero. -/
theorem randomIsTheMaskedDraw : Obligations.RandomIsTheMaskedDraw := by
  intro s x nn
  have hreg : (s.countDraw.setV x (s.nextRandom &&& nn)).reg x = s.nextRandom &&& nn := State.reg_setV_self _ _ _
  refine ⟨_, exec_rndVxNn s x nn, hreg, fun hzero => ?_, rfl, regsUnchanged_setV s.countDraw x _, ?_⟩
  · rw [hreg, hzero]
    exact BitVec.and_zero
  · exact ((frame_countDraw s).trans (frame_setV s.countDraw x _)).mono (by decide)

/-! ## Result and flag together -/

/-- What an instruction leaves in `x` and VF, read off any state it answers with. -/
theorem result_and_flag_of_next {i : Instr} {s t : State} {x : Reg} {r : Byte} {f : Bool} {result flag : Nat}
    (hexec : exec i s = .next (s.setResultAndFlag x r f)) (hresult : r.toNat = result)
    (hflag : (if f then 1 else 0) = flag) (hx : x ≠ vf) (h : exec i s = .next t) :
    (t.reg x).toNat = result ∧ (t.reg vf).toNat = flag := by
  obtain ⟨u, hnext, hreg, hvf, -, -⟩ := writes_resultNat_then_flag hexec hresult hflag
  obtain rfl : t = u := Host.Outcome.next.inj (h.symm.trans hnext)
  exact ⟨hreg hx, hvf⟩

/-- Settles O35: with result and flag as numbers, each identity is one about sums, differences and halves of bytes. -/
theorem resultAndFlagAreTheExactResult : Obligations.ResultAndFlagAreTheExactResult := by
  intro s t x y hx
  have hxlt := (s.reg x).isLt
  have hylt := (s.reg y).isLt
  refine ⟨fun h => ?_, fun h => ?_, fun h => ?_, fun h => ?_, fun h => ?_⟩
  · obtain ⟨hr, hf⟩ := result_and_flag_of_next (exec_addVxVy s x y) (BitVec.toNat_add _ _) (carry_toNat _ _) hx h
    rw [hr, hf]
    split <;> omega
  · obtain ⟨hr, hf⟩ := result_and_flag_of_next (exec_subVxVy s x y) (sub_toNat _ _) (noBorrow_toNat _ _) hx h
    rw [hr, hf]
    split <;> omega
  · obtain ⟨hr, hf⟩ := result_and_flag_of_next (exec_subnVxVy s x y) (sub_toNat _ _) (noBorrow_toNat _ _) hx h
    rw [hr, hf]
    split <;> omega
  · obtain ⟨hr, hf⟩ := result_and_flag_of_next (exec_shrVxVy s x y) (ushiftRight_one_toNat _)
      (shiftedOutRight_toNat _) hx h
    omega
  · obtain ⟨hr, hf⟩ := result_and_flag_of_next (exec_shlVxVy s x y) (shiftLeft_one_toNat _)
      (shiftedOutLeft_toNat _) hx h
    omega

end Sys2Proof.Machine
end

section
/-! Clearing the screen, the jump with offset, and the call stack (spec/41_control_flow.md R140 to R144, R160). -/

namespace Sys2Proof.Machine

/-! ## An instruction that raises -/

/-- An instruction that raises leaves the error in HALT and nothing else changed (R266). -/
theorem raises {i : Instr} {s : State} {kind : FatalKind} {info : Nat} (hexec : exec i s = raise kind info s) :
    ∃ t, exec i s = .next t ∧ HaltsWith kind info s t :=
  ⟨takeFatal s ⟨kind, info⟩, hexec, rfl, frame_takeFatal s _⟩

/-! ## Clearing the screen -/

theorem exec_cls (s : State) : exec .cls s = .next (s.setDisp Display.blank) := rfl

theorem Display.cell_blank (c : Fin 64) (r : Fin 32) : Display.cell Display.blank c r = false := by
  simp [Display.cell, Display.blank]

/-- Settles O37: the body puts the blank display in place of the old one. -/
theorem clearScreenTurnsEveryCellOff : Obligations.ClearScreenTurnsEveryCellOff := fun s =>
  ⟨s.setDisp Display.blank, exec_cls s, Display.cell_blank, rfl, frame_setDisp s Display.blank⟩

/-! ## The jump with offset -/

theorem exec_jpV0Nnn (s : State) (nnn : Addr12) :
    exec (.jpV0Nnn nnn) s = .next (s.setPc (offsetTarget nnn (s.reg 0))) := rfl

/-- A 12-bit address and a byte add up below 2^16, so the sum does not wrap. -/
theorem offsetTarget_toNat (nnn : Addr12) (b : Byte) : (offsetTarget nnn b).toNat = nnn.toNat + b.toNat := by
  have hnnn := nnn.isLt
  have hb := b.isLt
  rw [offsetTarget, BitVec.toNat_add, zextAddr_toNat, BitVec.toNat_setWidth_of_le (by decide)]
  omega

/-- Settles O43: `pc` gets the offset target, which is the sum as a number. -/
theorem jumpWithOffsetAddsV0 : Obligations.JumpWithOffsetAddsV0 := fun s nnn =>
  ⟨_, exec_jpV0Nnn s nnn, offsetTarget_toNat nnn (s.reg 0), frame_setPc s _⟩

/-! ## Call and return -/

theorem exec_callNnn_full {s : State} (nnn : Addr12) (h : s.sp.val = 16) :
    exec (.callNnn nnn) s = raise .stackOverflow s.instrAddr.toNat s := by
  rw [exec, execCallNnn, s.push_full s.pc h]

theorem exec_ret_empty {s : State} (h : s.sp.val = 0) :
    exec .ret s = raise .stackUnderflow s.instrAddr.toNat s := by
  rw [exec, execRet, s.pop_empty h]

/-- R144 where there is room: the address after the CALL goes to the slot SP, and `pc` to the target. -/
theorem exec_callNnn_room {s : State} (nnn : Addr12) (h : s.sp.val < 16) :
    ∃ t, exec (.callNnn nnn) s = .next t ∧ t.pc.toNat = nnn.toNat ∧ t.sp.val = s.sp.val + 1 ∧
      t.stack[s.sp.val] = s.pc ∧ (∀ k : Fin 16, k.val ≠ s.sp.val → t.stack[k] = s.stack[k]) ∧
      Frame [.pc, .sp, .stack] s t := by
  obtain ⟨u, hpush, hslot, hsp, hothers, hframe⟩ := s.push_spec s.pc h
  refine ⟨u.setPc (zextAddr nnn), ?_, zextAddr_toNat nnn, hsp, hslot, hothers, ?_⟩
  · rw [exec, execCallNnn, hpush]
  · exact (hframe.trans (frame_setPc u _)).mono (by decide)

/-- R141 where a slot is in use: the newest slot goes to `pc`. -/
theorem exec_ret_used {s : State} (h : 0 < s.sp.val) :
    ∃ t, exec .ret s = .next t ∧ t.pc = s.stack[s.sp.val - 1] ∧ t.sp.val + 1 = s.sp.val ∧ Frame [.pc, .sp] s t := by
  obtain ⟨u, hpop, hsp, hframe⟩ := s.pop_spec h
  refine ⟨u.setPc s.stack[s.sp.val - 1], ?_, rfl, hsp, ?_⟩
  · rw [exec, execRet, hpop]
  · exact (hframe.trans (frame_setPc u _)).mono (by decide)

/-- Settles O39: the two effects where there is room to push and something to pop. -/
theorem callPushesAndRetPops : Obligations.CallPushesAndRetPops :=
  ⟨fun _ nnn h => exec_callNnn_room nnn h, fun _ h => exec_ret_used h⟩

/-- Settles O41: the slot RET reads is the one CALL wrote, as `u` has the stack and the depth that CALL left. -/
theorem returnUndoesCall : Obligations.ReturnUndoesCall := by
  intro s t u w nnn hroom hcall hstack hsp hret
  obtain ⟨t', hcall', -, hdepth, hslot, -, -⟩ := exec_callNnn_room nnn hroom
  obtain rfl : t = t' := Host.Outcome.next.inj (hcall.symm.trans hcall')
  have hdepthU : u.sp.val = s.sp.val + 1 := by rw [hsp, hdepth]
  obtain ⟨w', hret', hpc, hback, -⟩ := exec_ret_used (s := u) (by omega)
  obtain rfl : w = w' := Host.Outcome.next.inj (hret.symm.trans hret')
  refine ⟨?_, Fin.ext (by omega)⟩
  rw [hpc, ← hslot]
  simp only [hstack, hdepthU, Nat.add_sub_cancel]

theorem sp_mem_changedBy {i : Instr} (h : Component.sp ∈ changedBy i) : (∃ nnn, i = .callNnn nnn) ∨ i = .ret := by
  cases i <;> simp_all [changedBy]

/-- A body moves the depth of the stack by at most 1. -/
theorem exec_sp_moves_by_one {i : Instr} {s t : State} (h : exec i s = .next t) :
    t.sp.val ≤ s.sp.val + 1 ∧ s.sp.val ≤ t.sp.val + 1 := by
  rcases exec_frame h with ⟨e, rfl⟩ | hframe
  · exact ⟨by simp, by simp⟩
  by_cases hsp : Component.sp ∈ changedBy i
  case neg =>
    have hsame : t.sp = s.sp := exec_same h hsp (by decide)
    omega
  rcases sp_mem_changedBy hsp with ⟨nnn, rfl⟩ | rfl
  · rcases Nat.lt_or_ge s.sp.val 16 with hroom | hfull
    · obtain ⟨u, hu, -, hdepth, -, -, -⟩ := exec_callNnn_room nnn hroom
      obtain rfl : t = u := Host.Outcome.next.inj (h.symm.trans hu)
      omega
    · rw [exec_callNnn_full nnn (by omega)] at h
      cases h
      simp
  · rcases Nat.eq_zero_or_pos s.sp.val with hempty | hused
    · rw [exec_ret_empty hempty] at h
      cases h
      simp
    · obtain ⟨u, hu, -, hdepth, -⟩ := exec_ret_used hused
      obtain rfl : t = u := Host.Outcome.next.inj (h.symm.trans hu)
      omega

/-- Settles O40: the two errors, and the depth, whose type has no value above 16. -/
theorem stackDisciplineViolationsAreFatal : Obligations.StackDisciplineViolationsAreFatal :=
  ⟨fun _ nnn hfull => raises (exec_callNnn_full nnn hfull), fun _ hempty => raises (exec_ret_empty hempty),
    fun _ _ t h => ⟨Nat.le_of_lt_succ t.sp.isLt, exec_sp_moves_by_one h⟩⟩

end Sys2Proof.Machine
end

section
/-! The sprite draw (spec/43_display.md R200 to R206). -/

namespace Sys2Proof.Machine

/-- The canvas DXYN draws on `s`: the display it leaves, and whether it turned a cell off. -/
def drawnCanvas (s : State) (x y : Reg) (n : Nibble) : Canvas :=
  drawRows (s.reg x).toNat (s.reg y).toNat (s.readBytes s.index.toNat n.toNat) ⟨s.disp, false⟩

theorem exec_drwVxVyN (s : State) (x y : Reg) (n : Nibble) : exec (.drwVxVyN x y n) s =
    checked (checkRead s.index.toNat n.toNat) s
      ((s.setDisp (drawnCanvas s x y n).cells).setFlag (drawnCanvas s x y n).collision) := rfl

theorem exec_drwVxVyN_of_inMemory {s : State} {n : Nibble} (x y : Reg) (h : InMemory s.index.toNat n.toNat) :
    exec (.drwVxVyN x y n) s =
      .next ((s.setDisp (drawnCanvas s x y n).cells).setFlag (drawnCanvas s x y n).collision) := by
  rw [exec_drwVxVyN, checkRead_of_inMemory h, checked]

theorem regsUnchanged_setFlag (s : State) (f : Bool) : RegsUnchangedExcept [vf] s (s.setFlag f) :=
  regsUnchanged_setV s vf (flagByte f)

theorem frame_setDisp_setFlag (s : State) (d : Display) (f : Bool) :
    Frame [.v, .disp, .dirty] s ((s.setDisp d).setFlag f) :=
  ((frame_setDisp s d).trans (frame_setV _ vf _)).mono (by decide)

/-- Settles O44: the canvas flips the covered cells and no other, and its collision, which is what the flag says, is a
covered cell that was on. -/
theorem drawFlipsExactlyTheSpriteBits : Obligations.DrawFlipsExactlyTheSpriteBits := by
  intro s x y n hin
  obtain ⟨hcovered, huncovered, hcollision⟩ := drawRows_spec s x y n
  refine ⟨_, exec_drwVxVyN_of_inMemory x y hin, hcovered, huncovered, fun hmet => ?_, fun hmissed => ?_, rfl,
    regsUnchanged_setFlag (s.setDisp _) _, frame_setDisp_setFlag s _ _⟩
  · have hflag : (drawnCanvas s x y n).collision = true := hcollision.mpr hmet
    rw [hflag]
    exact State.reg_setV_self _ _ _
  · have hflag : (drawnCanvas s x y n).collision = false := Bool.eq_false_iff.mpr fun hc => hmissed (hcollision.mp hc)
    rw [hflag]
    exact State.reg_setV_self _ _ _

/-- A draw at the same coordinates with the same sprite covers the same cells. -/
theorem spriteCovers_congr {s t : State} {x y : Reg} (n : Nibble) (c : Fin 64) (r : Fin 32)
    (hmem : ∀ a, t.readByte a = s.readByte a) (hindex : t.index = s.index) (hx : t.reg x = s.reg x)
    (hy : t.reg y = s.reg y) : SpriteCovers t x y n c r ↔ SpriteCovers s x y n c r := by
  simp only [SpriteCovers, hmem, hindex, hx, hy]

/-- Settles O45: both draws cover the same cells, so each covered cell is flipped twice, and it is on before the second
draw exactly when it was off before the first. -/
theorem secondDrawUndoesTheFirst : Obligations.SecondDrawUndoesTheFirst := by
  intro s t u x y n hin hfirst hx hy hsecond
  obtain ⟨t', hfirst', hflip₁, hkeep₁, -, -, -, -, hcore, -⟩ := drawFlipsExactlyTheSpriteBits s x y n hin
  obtain rfl : t = t' := Host.Outcome.next.inj (hfirst.symm.trans hfirst')
  have hindex : t.index = s.index := hcore .index (by decide)
  have hcovers : ∀ c r, SpriteCovers t x y n c r ↔ SpriteCovers s x y n c r := fun c r =>
    spriteCovers_congr n c r (hcore .mem (by decide)) hindex hx hy
  obtain ⟨u', hsecond', hflip₂, hkeep₂, hone, hzero, -⟩ := drawFlipsExactlyTheSpriteBits t x y n (hindex ▸ hin)
  obtain rfl : u = u' := Host.Outcome.next.inj (hsecond.symm.trans hsecond')
  have hmet : (∃ c r, SpriteCovers t x y n c r ∧ Display.cell t.disp c r = true) ↔
      ∃ c r, SpriteCovers s x y n c r ∧ Display.cell s.disp c r = false := by
    refine exists_congr fun c => exists_congr fun r => ?_
    rw [hcovers c r]
    exact and_congr_right fun hc => by rw [hflip₁ c r hc, Bool.not_eq_true']
  refine ⟨fun c r => ?_, fun hvf => ?_, fun hoff => hone (hmet.mpr hoff)⟩
  · by_cases hc : SpriteCovers s x y n c r
    · rw [hflip₂ c r ((hcovers c r).mpr hc), hflip₁ c r hc, Bool.not_not]
    · rw [hkeep₂ c r fun h => hc ((hcovers c r).mp h), hkeep₁ c r hc]
  · refine hmet.mp (Classical.byContradiction fun hmissed => ?_)
    rw [hzero hmissed] at hvf
    cases hvf

end Sys2Proof.Machine
end

section
/-! The index register, the timers and the wait for a key (spec/44_io_timer_memory.md R220 to R246). -/

namespace Sys2Proof.Machine

/-- A number that the width holds is the bit vector's number. -/
theorem toNat_ofNat_of_lt {w n : Nat} (h : n < 2 ^ w) : (BitVec.ofNat w n).toNat = n :=
  (BitVec.toNat_ofNat n w).trans (Nat.mod_eq_of_lt h)

/-! ## The index register -/

theorem exec_ldINnn (s : State) (nnn : Addr12) : exec (.ldINnn nnn) s = .next (s.setIndex (zextAddr nnn)) := rfl

/-- Settles O46: I gets the 12-bit address with zeros above, which is the same number. -/
theorem loadIndexWritesTheAddress : Obligations.LoadIndexWritesTheAddress := fun s nnn =>
  ⟨s.setIndex (zextAddr nnn), exec_ldINnn s nnn, zextAddr_toNat nnn, frame_setIndex s _⟩

/-- A sum up to 0xFFF is below both wraps, so it is written under every policy. -/
theorem exec_addIVx_inRange {s : State} {x : Reg} (h : s.index.toNat + (s.reg x).toNat ≤ 0xFFF) :
    exec (.addIVx x) s = .next (s.setIndex (BitVec.ofNat 16 (s.index.toNat + (s.reg x).toNat))) := by
  cases hpolicy : s.cfg.indexAdd with
  | fault => simp only [exec, execAddIVx, hpolicy, gt_iff_lt, if_neg (Nat.not_lt.mpr h)]
  | wrap12 => simp only [exec, execAddIVx, hpolicy, Nat.mod_eq_of_lt (Nat.lt_of_le_of_lt h (by decide : 0xFFF < 2 ^ 12))]
  | wrap16 => simp only [exec, execAddIVx, hpolicy, Nat.mod_eq_of_lt (Nat.lt_of_le_of_lt h (by decide : 0xFFF < 2 ^ 16))]

theorem exec_addIVx_fault {s : State} {x : Reg} (hpolicy : s.cfg.indexAdd = .fault)
    (h : 0xFFF < s.index.toNat + (s.reg x).toNat) :
    exec (.addIVx x) s = raise .memoryOutOfRange (s.index.toNat + (s.reg x).toNat) s := by
  simp only [exec, execAddIVx, hpolicy, gt_iff_lt, if_pos h]

theorem exec_addIVx_wrap12 {s : State} (x : Reg) (hpolicy : s.cfg.indexAdd = .wrap12) :
    exec (.addIVx x) s = .next (s.setIndex (BitVec.ofNat 16 ((s.index.toNat + (s.reg x).toNat) % 4096))) := by
  simp only [exec, execAddIVx, hpolicy, Nat.reducePow]

theorem exec_addIVx_wrap16 {s : State} (x : Reg) (hpolicy : s.cfg.indexAdd = .wrap16) :
    exec (.addIVx x) s = .next (s.setIndex (BitVec.ofNat 16 ((s.index.toNat + (s.reg x).toNat) % 65536))) := by
  simp only [exec, execAddIVx, hpolicy, Nat.reducePow]

/-- FX1E raises, or writes I; what it writes is an address unless the policy is `wrap16`. -/
theorem exec_addIVx_cases (s : State) (x : Reg) :
    exec (.addIVx x) s = raise .memoryOutOfRange (s.index.toNat + (s.reg x).toNat) s ∨
    ∃ a : Word, exec (.addIVx x) s = .next (s.setIndex a) ∧ (s.cfg.indexAdd ≠ .wrap16 → a.toNat ≤ 0xFFF) := by
  rcases Nat.lt_or_ge 0xFFF (s.index.toNat + (s.reg x).toNat) with hgt | hle
  · cases hpolicy : s.cfg.indexAdd with
    | fault => exact .inl (exec_addIVx_fault hpolicy hgt)
    | wrap12 =>
      refine .inr ⟨_, exec_addIVx_wrap12 x hpolicy, fun _ => ?_⟩
      rw [toNat_ofNat_of_lt (by omega)]
      omega
    | wrap16 => exact .inr ⟨_, exec_addIVx_wrap16 x hpolicy, fun h => absurd rfl h⟩
  · refine .inr ⟨_, exec_addIVx_inRange hle, fun _ => ?_⟩
    rwa [toNat_ofNat_of_lt (by omega)]

/-- An instruction that writes I leaves the number there, if it is a word, and nothing else changed. -/
theorem writes_index {i : Instr} {s : State} {a : Nat} (hexec : exec i s = .next (s.setIndex (BitVec.ofNat 16 a)))
    (ha : a < 65536) : ∃ t, exec i s = .next t ∧ t.index.toNat = a ∧ Frame [.index] s t :=
  ⟨_, hexec, toNat_ofNat_of_lt ha, frame_setIndex s _⟩

/-- Settles O51: the sum in range, then each policy past the range. -/
theorem indexAddFollowsItsPolicy : Obligations.IndexAddFollowsItsPolicy := fun _ x =>
  ⟨fun hle => writes_index (exec_addIVx_inRange hle) (by omega),
    fun hgt hpolicy => raises (exec_addIVx_fault hpolicy hgt),
    fun hpolicy => writes_index (exec_addIVx_wrap12 x hpolicy) (by omega),
    fun hpolicy => writes_index (exec_addIVx_wrap16 x hpolicy) (by omega)⟩

/-! ## The timers -/

theorem exec_ldVxDt (s : State) (x : Reg) : exec (.ldVxDt x) s = .next (s.setV x s.dt) := rfl

theorem exec_ldDtVx (s : State) (x : Reg) : exec (.ldDtVx x) s = .next (s.setDt (s.reg x)) := rfl

theorem exec_ldStVx (s : State) (x : Reg) : exec (.ldStVx x) s = .next (s.setSt (s.reg x)) := rfl

/-- Settles O48: each of the three writes one component. -/
theorem timersAreReadAndSetByTheirInstructions : Obligations.TimersAreReadAndSetByTheirInstructions := fun s x =>
  ⟨writes_register (exec_ldVxDt s x), ⟨_, exec_ldDtVx s x, rfl, frame_setDt s _⟩, _, exec_ldStVx s x, rfl,
    frame_setSt s _⟩

/-! ## The wait for a key -/

theorem exec_ldVxK_of_lowest {s : State} {k : Fin 16} (x : Reg) (h : s.lowestKey = some k) :
    exec (.ldVxK x) s = .next (s.setV x (BitVec.ofNat 8 k.val)) := by
  rw [exec, execLdVxK, h]

/-- FX0A takes a key, or moves `pc` back. -/
theorem exec_ldVxK_cases (s : State) (x : Reg) : (∃ b, exec (.ldVxK x) s = .next (s.setV x b)) ∨
    exec (.ldVxK x) s = .next (s.setPc (s.pc - 2)) := by
  cases hkey : s.lowestKey with
  | some k => exact .inl ⟨_, exec_ldVxK_of_lowest x hkey⟩
  | none => exact .inr (exec_ldVxK_noKey x (State.lowestKey_none.mp hkey))

/-- Settles O49: the key found is the lowest pressed one, and its index is a byte; with none pressed `pc` goes back. -/
theorem waitTakesTheLowestPressedKey : Obligations.WaitTakesTheLowestPressedKey := by
  intro s x
  refine ⟨fun k hpressed hlower => ?_, fun hnone => ?_⟩
  · have hlowest : s.lowestKey = some k := State.lowestKey_some.mpr ⟨hpressed, hlower⟩
    exact writes_register_with (P := fun b => b.toNat = k.val) (exec_ldVxK_of_lowest x hlowest)
      (toNat_ofNat_of_lt (by omega))
  · exact ⟨s.setPc (s.pc - 2), exec_ldVxK_noKey x hnone, rfl, frame_setPc s _⟩

end Sys2Proof.Machine
end

section
/-! Block memory (spec/44_io_timer_memory.md R240 to R244, spec/20_memory.md R58, R63): what a permitted store writes,
what a load reads, and the errors of both. -/

namespace Sys2Proof.Machine

/-! ## Stores -/

theorem exec_ldBVx (s : State) (x : Reg) : exec (.ldBVx x) s = storeAtIndex (bcdDigits (s.reg x)) s := rfl

theorem exec_ldMemIVx (s : State) (x : Reg) : exec (.ldMemIVx x) s = storeAtIndex (s.regsUpTo x) s := rfl

theorem storeAtIndex_of_permitted {s : State} {bytes : List Byte} (h : StorePermitted s bytes.length) :
    storeAtIndex bytes s = .next (s.writeBytes s.index.toNat bytes) := by
  rw [storeAtIndex, checkWrite_of_permitted h, checked]

/-- A permitted store leaves the bytes from I upward, every other byte and all else as it was, and memory canonical. -/
theorem stores_bytes {i : Instr} {s : State} {bytes : List Byte} (hexec : exec i s = storeAtIndex bytes s)
    (hwf : Memory.wf s.cfg.fontTable s.mem = true) (hperm : StorePermitted s bytes.length) :
    ∃ t, exec i s = .next t ∧ (∀ (k : Nat) (hk : k < bytes.length), t.readByte (s.index.toNat + k) = bytes[k]) ∧
      (∀ a, (a < s.index.toNat ∨ s.index.toNat + bytes.length ≤ a) → t.readByte a = s.readByte a) ∧
      Memory.wf t.cfg.fontTable t.mem = true ∧ Frame [.mem] s t := by
  refine ⟨s.writeBytes s.index.toNat bytes, hexec.trans (storeAtIndex_of_permitted hperm), ?_, ?_, ?_,
    frame_writeBytes s _ _⟩
  · exact State.readByte_writeBytes_inside hwf hperm.1
  · exact fun a ha => State.readByte_writeBytes_outside ha
  · exact Memory.wf_writeSpan hwf hperm.1

/-- Settles O52: the bytes stored are the three digits. -/
theorem bcdStoresThreeDigits : Obligations.BcdStoresThreeDigits := by
  intro s x hwf hperm
  obtain ⟨t, hnext, hstored, hothers, hwf', hframe⟩ := stores_bytes (exec_ldBVx s x) hwf hperm
  have hlt := (s.reg x).isLt
  refine ⟨t, hnext, ?_, ?_, ?_, hothers, hwf', hframe⟩
  · have h := hstored 0 (by simp [bcdDigits])
    rw [Nat.add_zero] at h
    rw [h]
    exact toNat_ofNat_of_lt (by omega)
  · rw [hstored 1 (by simp [bcdDigits])]
    exact toNat_ofNat_of_lt (by omega)
  · rw [hstored 2 (by simp [bcdDigits])]
    exact toNat_ofNat_of_lt (by omega)

/-- Settles O53: the bytes stored are the registers up to `x`. -/
theorem blockStoreCopiesTheRegisters : Obligations.BlockStoreCopiesTheRegisters := by
  intro s x hwf hperm
  have hlen := s.regsUpTo_length x
  obtain ⟨t, hnext, hstored, hothers, hwf', hframe⟩ := stores_bytes (exec_ldMemIVx s x) hwf (hlen ▸ hperm)
  refine ⟨t, hnext, fun k (hk : k.val ≤ x.val) => ?_, fun a ha => hothers a (by omega), hwf', hframe⟩
  rw [hstored k.val (by omega), s.regsUpTo_getElem x k hk]

/-- Settles O58: the two bytes are read back as stored, and the word has the first of them above the second. -/
theorem storedWordIsWhatIsFetched : Obligations.StoredWordIsWhatIsFetched := by
  intro s t x j k hwf hperm hexec hkx hkj
  obtain ⟨t', hnext, hstored, -⟩ := blockStoreCopiesTheRegisters s x hwf hperm
  obtain rfl : t = t' := Host.Outcome.next.inj (hexec.symm.trans hnext)
  have hlt : j.val < k.val := by omega
  have hj : t.readByte (s.index.toNat + j.val) = s.reg j := hstored j (Nat.le_trans (Nat.le_of_lt hlt) hkx)
  have hk : t.readByte (s.index.toNat + j.val + 1) = s.reg k := by
    rw [Nat.add_assoc, ← hkj]
    exact hstored k hkx
  rw [State.readWord, hj, hk, wordOfBytes]
  exact toNat_append_eq_add (s.reg j) (s.reg k)

/-! ## The block load -/

theorem exec_ldVxMemI (s : State) (x : Reg) : exec (.ldVxMemI x) s =
    checked (checkRead s.index.toNat (x.val + 1)) s (s.loadRegs x) := rfl

/-- Settles O54: the load writes the registers up to `x` and keeps those above. -/
theorem blockLoadCopiesTheBytes : Obligations.BlockLoadCopiesTheBytes := by
  intro s x hin
  refine ⟨s.loadRegs x, ?_, fun k hk => ?_, fun k hk => ?_, frame_loadRegs s x⟩
  · rw [exec_ldVxMemI, checkRead_of_inMemory hin, checked]
  · rw [State.reg_loadRegs, if_pos hk]
  · rw [State.reg_loadRegs, if_neg (Fin.not_le.mpr hk)]

/-! ## Errors -/

/-- A body behind a check that fails raises the check's error. -/
theorem raises_of_check {i : Instr} {s body : State} {check : Option FatalError} {kind : FatalKind} {info : Nat}
    (hexec : exec i s = checked check s body) (hcheck : check = some ⟨kind, info⟩) :
    ∃ t, exec i s = .next t ∧ HaltsWith kind info s t :=
  raises (by rw [hexec, hcheck]; rfl)

theorem skipOnKey_above {s : State} {x : Reg} (h : 15 < (s.reg x).toNat) (pressed : Bool) :
    skipOnKey pressed x s = raise .keyIndexOutOfRange (s.reg x).toNat s := by
  rw [skipOnKey, keyIndex_of_gt h]

/-- A key skip raises, or it skips on some condition. -/
theorem skipOnKey_cases (pressed : Bool) (x : Reg) (s : State) :
    skipOnKey pressed x s = raise .keyIndexOutOfRange (s.reg x).toNat s ∨
    ∃ c, skipOnKey pressed x s = .next (s.skipIf c) := by
  rcases Nat.lt_or_ge 15 (s.reg x).toNat with habove | hkey
  · exact .inl (skipOnKey_above habove pressed)
  · exact .inr ⟨_, skipOnKey_of_key (k := ⟨(s.reg x).toNat, Nat.lt_succ_of_le hkey⟩) rfl pressed⟩

/-- Settles O56: each of the four checks fails, and a failed check is all the body does. -/
theorem failedReadsAndKeysAreFatal : Obligations.FailedReadsAndKeysAreFatal := fun s x y n =>
  ⟨fun hout => raises_of_check (exec_drwVxVyN s x y n) (checkRead_of_not_inMemory hout),
    fun hout => raises_of_check (exec_ldVxMemI s x) (checkRead_of_not_inMemory hout),
    fun habove => ⟨raises (skipOnKey_above habove true), raises (skipOnKey_above habove false)⟩⟩

/-- A store of a few bytes fails when its span leaves memory, and when it starts in a protected font. -/
theorem store_fails {i : Instr} {s : State} {bytes : List Byte} {n : Nat} (hexec : exec i s = storeAtIndex bytes s)
    (hlen : bytes.length = n) (hpos : 0 < n) (hsmall : n ≤ 16) :
    (0x1000 < s.index.toNat + n → ∃ t, exec i s = .next t ∧
      HaltsWith .memoryOutOfRange (max s.index.toNat 0x1000) s t) ∧
    (s.cfg.fontWrite = .fault → s.index.toNat ≤ 0x04F → ∃ t, exec i s = .next t ∧
      HaltsWith .readOnlyWrite s.index.toNat s t) := by
  subst hlen
  refine ⟨fun hout => raises_of_check hexec (checkWrite_outside ?_), fun hpolicy hfont => raises_of_check hexec ?_⟩
  · unfold InMemory
    omega
  · rw [hpolicy]
    exact checkWrite_font (.inr (by omega)) hfont

/-- Settles O57: FX33 stores 3 bytes and FX55 x + 1, at most 16. -/
theorem failedStoresAreFatalAndWriteNothing : Obligations.FailedStoresAreFatalAndWriteNothing := by
  rintro s x i n (⟨rfl, rfl⟩ | ⟨rfl, rfl⟩)
  · exact store_fails (exec_ldBVx s x) rfl (by decide) (by decide)
  · exact store_fails (exec_ldMemIVx s x) (s.regsUpTo_length x) (Nat.succ_pos _) (Nat.succ_le_of_lt x.isLt)

end Sys2Proof.Machine
end

section
/-! Every body in every state (spec/60_exceptions.md R270): each answers, leaves the host's side alone, and writes VF and
the count of draws only where its rule says so (spec/10_state.md R27, spec/42_arithmetic.md R189). -/

namespace Sys2Proof.Machine

/-! ## What `changedBy` lists -/

theorem halt_not_mem_changedBy (i : Instr) : Component.halt ∉ changedBy i := by
  cases i <;> simp [changedBy]

theorem draws_mem_changedBy {i : Instr} (h : Component.draws ∈ changedBy i) : ∃ x nn, i = .rndVxNn x nn := by
  cases i <;> simp_all [changedBy]

/-! ## Every body answers -/

theorem checked_answers (check : Option FatalError) (s body : State) : ∃ t, checked check s body = .next t := by
  cases check with
  | none => exact ⟨body, rfl⟩
  | some e => exact ⟨takeFatal s e, rfl⟩

theorem skipOnKey_answers (pressed : Bool) (x : Reg) (s : State) : ∃ t, skipOnKey pressed x s = .next t := by
  rcases skipOnKey_cases pressed x s with hraise | ⟨c, hskip⟩
  · exact ⟨_, hraise⟩
  · exact ⟨_, hskip⟩

theorem exec_answers (i : Instr) (s : State) : ∃ t, exec i s = .next t := by
  cases i with
  | ret =>
    rcases Nat.eq_zero_or_pos s.sp.val with hempty | hused
    · exact ⟨_, exec_ret_empty hempty⟩
    · obtain ⟨t, hnext, -⟩ := exec_ret_used hused
      exact ⟨t, hnext⟩
  | callNnn nnn =>
    rcases Nat.lt_or_ge s.sp.val 16 with hroom | hfull
    · obtain ⟨t, hnext, -⟩ := exec_callNnn_room nnn hroom
      exact ⟨t, hnext⟩
    · exact ⟨_, exec_callNnn_full nnn (by omega)⟩
  | skpVx x => exact skipOnKey_answers true x s
  | sknpVx x => exact skipOnKey_answers false x s
  | ldVxK x =>
    rcases exec_ldVxK_cases s x with ⟨b, htake⟩ | hwait
    · exact ⟨_, htake⟩
    · exact ⟨_, hwait⟩
  | addIVx x =>
    rcases exec_addIVx_cases s x with hraise | ⟨a, hwrite, -⟩
    · exact ⟨_, hraise⟩
    · exact ⟨_, hwrite⟩
  | drwVxVyN x y n => exact checked_answers _ s _
  | ldBVx x => exact checked_answers _ s _
  | ldMemIVx x => exact checked_answers _ s _
  | ldVxMemI x => exact checked_answers _ s _
  | _ => exact ⟨_, rfl⟩

theorem exec_hostSide {i : Instr} {s t : State} (h : exec i s = .next t) : HostSideUnchanged s t := by
  rcases exec_frame h with ⟨e, rfl⟩ | hframe
  · exact (frame_takeFatal s e).2
  · exact hframe.2

/-- HALT is as it was, or the body took an error and did nothing else. -/
theorem exec_halt_cases {i : Instr} {s t : State} (h : exec i s = .next t) :
    (∃ e, t = takeFatal s e) ∨ t.halt = s.halt := by
  rcases exec_frame h with herror | hframe
  · exact .inl herror
  · exact .inr (hframe.1 .halt (halt_not_mem_changedBy i))

/-- Settles O17: the body answers, its frame spares the host's side, and only an error writes HALT. -/
theorem everyInstructionAnswersInEveryState : Obligations.EveryInstructionAnswersInEveryState := by
  intro i s
  obtain ⟨t, hnext⟩ := exec_answers i s
  refine ⟨t, hnext, exec_hostSide hnext, ?_⟩
  rcases exec_halt_cases hnext with ⟨e, rfl⟩ | hsame
  · exact .inr rfl
  · exact .inl hsame

/-! ## The count of draws -/

/-- Settles O16: CXNN counts one draw, and no other instruction lists the count among what it changes. -/
theorem onlyRandomTakesADraw : Obligations.OnlyRandomTakesADraw := by
  intro i s t h
  refine ⟨?_, fun hother => exec_same h (c := .draws) (fun hlisted => ?_) (by decide)⟩
  · rintro ⟨x, nn, rfl⟩
    cases h
    rfl
  · obtain ⟨x, nn, rfl⟩ := draws_mem_changedBy hlisted
    exact hother x nn rfl

/-! ## The flag register -/

/-- A register that an instruction with one destination changed is that destination. -/
theorem eq_of_reg_setV_ne {i : Instr} {s t u : State} {x z : Reg} {b : Byte} (h : exec i s = .next t)
    (hexec : exec i s = .next (u.setV x b)) (hu : u.reg z = s.reg z) (hchanged : t.reg z ≠ s.reg z) : x = z := by
  obtain rfl : t = u.setV x b := Host.Outcome.next.inj (h.symm.trans hexec)
  refine Decidable.byContradiction fun hne => hchanged ?_
  rw [State.reg_setV, if_neg (Ne.symm hne), hu]

theorem le_of_loadRegs_changed {s t : State} {x z : Reg} (h : exec (.ldVxMemI x) s = .next t)
    (hchanged : t.reg z ≠ s.reg z) : z ≤ x := by
  rcases checked_cases h with ⟨e, -, rfl⟩ | ⟨-, rfl⟩
  · exact absurd (State.reg_takeFatal s e z) hchanged
  · refine Decidable.byContradiction fun habove => hchanged ?_
    rw [State.reg_loadRegs, if_neg habove]

theorem eq_of_ldVxK_changed {s t : State} {x z : Reg} (h : exec (.ldVxK x) s = .next t)
    (hchanged : t.reg z ≠ s.reg z) : x = z := by
  rcases exec_ldVxK_cases s x with ⟨b, htake⟩ | hwait
  · exact eq_of_reg_setV_ne h htake rfl hchanged
  · cases h.symm.trans hwait
    exact absurd (State.reg_setPc s _ z) hchanged

/-- Settles O15: an instruction that does not list the registers keeps VF; of those that do, one either sets the flag or
has its destination in VF, or in a register from VF on. -/
theorem flagRegisterHasItsOwnWriters : Obligations.FlagRegisterHasItsOwnWriters := by
  intro i s t h hchanged
  have hlisted : Component.v ∈ changedBy i := Decidable.byContradiction fun hnot => hchanged (by
    have hsame : t.v = s.v := exec_same h hnot (by decide)
    rw [State.reg, hsame, State.reg])
  cases i with
  | ldVxNn x nn =>
    obtain rfl := eq_of_reg_setV_ne h (exec_ldVxNn s x nn) rfl hchanged
    simp
  | addVxNn x nn =>
    obtain rfl := eq_of_reg_setV_ne h (exec_addVxNn s x nn) rfl hchanged
    simp
  | ldVxVy x y =>
    obtain rfl := eq_of_reg_setV_ne h (exec_ldVxVy s x y) rfl hchanged
    simp
  | orVxVy x y =>
    obtain rfl := eq_of_reg_setV_ne h (exec_orVxVy s x y) rfl hchanged
    simp
  | andVxVy x y =>
    obtain rfl := eq_of_reg_setV_ne h (exec_andVxVy s x y) rfl hchanged
    simp
  | xorVxVy x y =>
    obtain rfl := eq_of_reg_setV_ne h (exec_xorVxVy s x y) rfl hchanged
    simp
  | rndVxNn x nn =>
    obtain rfl := eq_of_reg_setV_ne h (exec_rndVxNn s x nn) (State.reg_countDraw s vf) hchanged
    simp
  | ldVxDt x =>
    obtain rfl := eq_of_reg_setV_ne h (exec_ldVxDt s x) rfl hchanged
    simp
  | ldVxK x =>
    obtain rfl := eq_of_ldVxK_changed h hchanged
    simp
  | ldVxMemI x =>
    obtain rfl : x = vf := Fin.le_antisymm (Fin.le_last x) (le_of_loadRegs_changed h hchanged)
    simp
  | addVxVy x y => simp
  | subVxVy x y => simp
  | shrVxVy x y => simp
  | subnVxVy x y => simp
  | shlVxVy x y => simp
  | drwVxVyN x y n => simp
  | _ => simp [changedBy] at hlisted

end Sys2Proof.Machine
end

section
/-! What a cycle answers with and what it can change (spec/40_cycle.md R111 to R118, spec/60_exceptions.md R263, R266). -/

namespace Sys2Proof.Machine

/-! ## What `changedBy` lists -/

theorem index_mem_changedBy {i : Instr} (h : Component.index ∈ changedBy i) :
    (∃ nnn, i = .ldINnn nnn) ∨ (∃ x, i = .addIVx x) ∨ (∃ x, i = .ldFVx x) := by
  cases i <;> simp_all [changedBy]

theorem stack_mem_changedBy {i : Instr} (h : Component.stack ∈ changedBy i) : ∃ nnn, i = .callNnn nnn := by
  cases i <;> simp_all [changedBy]

theorem disp_mem_changedBy {i : Instr} (h : Component.disp ∈ changedBy i) :
    i = .cls ∨ ∃ x y n, i = .drwVxVyN x y n := by
  cases i <;> simp_all [changedBy]

theorem dirty_mem_changedBy {i : Instr} (h : Component.dirty ∈ changedBy i) :
    i = .cls ∨ ∃ x y n, i = .drwVxVyN x y n := by
  cases i <;> simp_all [changedBy]

theorem mem_mem_changedBy {i : Instr} (h : Component.mem ∈ changedBy i) :
    (∃ x, i = .ldBVx x) ∨ ∃ x, i = .ldMemIVx x := by
  cases i <;> simp_all [changedBy]

/-! ## What a cycle answers with -/

theorem CoreUnchangedExcept.mono {cs ds : List Component} {s t : State} (h : CoreUnchangedExcept cs s t)
    (hsub : ∀ c ∈ cs, c ∈ ds) : CoreUnchangedExcept ds s t := fun c hc => h c fun hcs => hc (hsub c hcs)

/-- Settles O59: the answer to a Cycle call is the cycle. -/
theorem stepThatMakesACycleIsTheCycle : Obligations.StepThatMakesACycleIsTheCycle := fun _ hcycle =>
  step_of_nextCall hcycle

theorem cycle_of_hostStopped {s : State} (h : hostHasStopped s = true) : cycle s = .fault .hostStopsCycling := by
  rw [cycle, if_pos h]

theorem cycle_of_halted {s : State} {e : FatalError} (hruns : hostHasStopped s = false) (hhalt : s.halt = some e) :
    cycle s = .next { s with reply := .fatal e } := by
  simp [cycle, hruns, hhalt]

theorem cycle_of_fetch_outside {s : State} (hruns : hostHasStopped s = false) (hhalt : s.halt = none)
    (hpc : 0xFFE < s.pc.toNat) : cycle s = .next (concludeCycle
      (takeFatal { s with phase := .running } ⟨.memoryOutOfRange, max s.pc.toNat 0x1000⟩)) := by
  have hout : ¬ InMemory s.pc.toNat 2 := by
    unfold InMemory
    omega
  simp [cycle, hruns, hhalt, checkRead_of_not_inMemory hout]

theorem cycle_of_fetch_inside {s : State} (hruns : hostHasStopped s = false) (hhalt : s.halt = none)
    (hpc : s.pc.toNat ≤ 0xFFE) : cycle s = (decodeWord (s.readWord s.pc.toNat)).elim
      (.next (reportUnknown (s.readWord s.pc.toNat) s.pc (advance s))) fun i => runBody i (advance s) := by
  have hin : InMemory s.pc.toNat 2 := .inr (by omega)
  cases hdecode : decodeWord (s.readWord s.pc.toNat) <;>
    simp [cycle, hruns, hhalt, checkRead_of_inMemory hin, hdecode]

/-- A host that has not stopped gets an answer to every cycle: no body ends in a fault or a refusal. -/
theorem cycle_answers {s : State} (hruns : hostHasStopped s = false) : ∃ t, cycle s = .next t := by
  cases hhalt : s.halt with
  | some e => exact ⟨_, cycle_of_halted hruns hhalt⟩
  | none =>
    rcases Nat.lt_or_ge 0xFFE s.pc.toNat with hout | hin
    · exact ⟨_, cycle_of_fetch_outside hruns hhalt hout⟩
    · rw [cycle_of_fetch_inside hruns hhalt hin]
      cases decodeWord (s.readWord s.pc.toNat) with
      | none => exact ⟨_, rfl⟩
      | some i =>
        obtain ⟨t, hexec⟩ := exec_answers i (advance s)
        exact ⟨_, runBody_of_exec hexec⟩

theorem hostHasStopped_iff {s : State} :
    hostHasStopped s = true ↔ s.cfg.haltOnUnknown = true ∧ s.unknowns ≠ [] := by
  simp [hostHasStopped]

theorem hostHasStopped_takeCall (s : State) : hostHasStopped s.takeCall = hostHasStopped s := by
  simp [hostHasStopped]

/-- A fetch that fails writes HALT and the session's record. -/
theorem core_failedFetch (s : State) (e : FatalError) :
    CoreUnchangedExcept [.halt] s (concludeCycle (takeFatal { s with phase := .running } e)) :=
  ((core_sessionRecord s s.reply s.unknowns .running).trans (frame_takeFatal _ e).1).trans (core_concludeCycle _)

/-! ## The answers of a step that makes a cycle -/

/-- Settles O8: the step reports the word on the advanced state, and the report writes the session's record alone. -/
theorem unknownWordIsReportedAndSkipped : Obligations.UnknownWordIsReportedAndSkipped := by
  intro s op hfetch hdecode
  refine ⟨_, step_of_fetches_unknown hfetch hdecode, by simp, ?_, rfl, by simp, by simp, rfl, rfl⟩
  exact ((core_takeCall s).trans (core_advance _)).trans (core_reportUnknown op s.pc _)

/-- Settles O9: the fetch fails and takes its error with `pc` as it was. -/
theorem fetchOutsideMemoryIsFatal : Obligations.FetchOutsideMemoryIsFatal := by
  intro s hcycle hhost hhalt hpc
  have hruns : hostHasStopped s.takeCall = false := by
    rw [hostHasStopped_takeCall, hostHasStopped_of_noUnknown hhost]
  have hanswer := cycle_of_fetch_outside hruns (by rwa [State.takeCall_halt]) (by rwa [State.takeCall_pc])
  exact ⟨_, (stepThatMakesACycleIsTheCycle s hcycle).trans hanswer, (core_takeCall s).trans (core_failedFetch _ _),
    by simp, by simp [concludeCycle], rfl, rfl⟩

/-- Settles O10: the cycle writes its result alone. -/
theorem haltedCycleRepeatsItsError : Obligations.HaltedCycleRepeatsItsError := by
  intro s e hcycle hhost hhalt
  have hruns : hostHasStopped s.takeCall = false := by
    rw [hostHasStopped_takeCall, hostHasStopped_of_noUnknown hhost]
  have hanswer := cycle_of_halted hruns (e := e) (by rwa [State.takeCall_halt])
  exact ⟨_, (stepThatMakesACycleIsTheCycle s hcycle).trans hanswer,
    (core_takeCall s).trans (core_sessionRecord _ _ _ _), rfl, rfl, rfl⟩

/-- Settles O29: the policy and the report are what stops the host, and a host that has not stopped gets an answer. -/
theorem hostPolicyDecidesAfterUnknown : Obligations.HostPolicyDecidesAfterUnknown := by
  intro s hcycle hunknown
  rw [stepThatMakesACycleIsTheCycle s hcycle]
  refine ⟨fun hpolicy => cycle_of_hostStopped ?_, fun hpolicy => cycle_answers ?_⟩
  · rw [hostHasStopped_takeCall, hostHasStopped_iff]
    exact ⟨hpolicy, hunknown⟩
  · rw [hostHasStopped_takeCall]
    exact hostHasStopped_of_noUnknown fun h => absurd h (by rw [hpolicy]; decide)

/-! ## Errors are precise -/

/-- Settles O11: HALT is set by a failed fetch, before the advance, or by a body, after it; a body that sets HALT has done
nothing else. -/
theorem fatalErrorsArePrecise : Obligations.FatalErrorsArePrecise := by
  intro s t e h hrunning hhalted
  rcases cycle_cases h with ⟨e', hhalt, -⟩ | ⟨-, hpc, rfl⟩ | ⟨-, hpc, i, u, -, hexec, rfl⟩ | ⟨-, -, -, rfl⟩
  · rw [hrunning] at hhalt
    cases hhalt
  · cases hhalted
    exact ⟨(core_failedFetch s _).mono (by decide), rfl, fun hle => absurd hpc (Nat.not_lt.mpr hle),
      fun _ => rfl⟩
  · rw [concludeCycle_halt] at hhalted
    rcases exec_halt_cases hexec with ⟨e', rfl⟩ | hsame
    · cases hhalted
      have hcore := ((core_advance s).trans (frame_takeFatal _ e).1).trans (core_concludeCycle _)
      exact ⟨hcore.mono (by decide), rfl, fun _ => rfl, fun hgt => absurd hgt (Nat.not_lt.mpr hpc)⟩
    · rw [hsame, advance_halt, hrunning] at hhalted
      cases hhalted
  · rw [reportUnknown_halt, advance_halt, hrunning] at hhalted
    cases hhalted

/-! ## The writers of each component -/

/-- Settles O13: the decoded instruction lists each component that the cycle changed. -/
theorem indexStackAndDisplayHaveTheirOwnWriters : Obligations.IndexStackAndDisplayHaveTheirOwnWriters := by
  intro s t h
  refine ⟨fun hindex => ?_, ?_, ?_⟩
  · obtain ⟨i, hdecode, hlisted⟩ := changed_by_decoded_of_cycle h (c := .index) (by decide) (by decide) hindex
    exact ⟨i, hdecode, index_mem_changedBy hlisted⟩
  · rintro (hstack | hsp)
    · obtain ⟨i, hdecode, hlisted⟩ := changed_by_decoded_of_cycle h (c := .stack) (by decide) (by decide) hstack
      exact ⟨i, hdecode, .inl (stack_mem_changedBy hlisted)⟩
    · obtain ⟨i, hdecode, hlisted⟩ := changed_by_decoded_of_cycle h (c := .sp) (by decide) (by decide) hsp
      exact ⟨i, hdecode, sp_mem_changedBy hlisted⟩
  · rintro (hdisp | hdirty)
    · obtain ⟨i, hdecode, hlisted⟩ := changed_by_decoded_of_cycle h (c := .disp) (by decide) (by decide) hdisp
      exact ⟨i, hdecode, disp_mem_changedBy hlisted⟩
    · obtain ⟨i, hdecode, hlisted⟩ := changed_by_decoded_of_cycle h (c := .dirty) (by decide) (by decide) hdirty
      exact ⟨i, hdecode, dirty_mem_changedBy hlisted⟩

/-- A byte that a store changed lies inside the span it stores to. -/
theorem storeAtIndex_changed {bytes : List Byte} {s t : State} {a : Nat} (h : storeAtIndex bytes s = .next t)
    (hchanged : t.readByte a ≠ s.readByte a) : s.index.toNat ≤ a ∧ a < s.index.toNat + bytes.length := by
  rcases checked_cases h with ⟨e, -, rfl⟩ | ⟨-, rfl⟩
  · exact absurd (State.readByte_takeFatal s e a) hchanged
  · refine Decidable.byContradiction fun hout => hchanged (State.readByte_writeBytes_outside ?_)
    omega

theorem exec_byte_changed {i : Instr} {s t : State} {a : Nat} (h : exec i s = .next t)
    (hchanged : t.readByte a ≠ s.readByte a) : ∃ x : Reg,
      (i = .ldBVx x ∧ s.index.toNat ≤ a ∧ a ≤ s.index.toNat + 2) ∨
      (i = .ldMemIVx x ∧ s.index.toNat ≤ a ∧ a ≤ s.index.toNat + x.val) := by
  have hlisted : Component.mem ∈ changedBy i := Decidable.byContradiction fun hnot =>
    hchanged (exec_same (c := .mem) h hnot (by decide) a)
  rcases mem_mem_changedBy hlisted with ⟨x, rfl⟩ | ⟨x, rfl⟩
  · obtain ⟨hlow, hhigh⟩ := storeAtIndex_changed h hchanged
    exact ⟨x, .inl ⟨rfl, hlow, Nat.le_of_lt_succ hhigh⟩⟩
  · obtain ⟨hlow, hhigh⟩ := storeAtIndex_changed h hchanged
    rw [State.regsUpTo_length] at hhigh
    exact ⟨x, .inr ⟨rfl, hlow, Nat.le_of_lt_succ hhigh⟩⟩

/-- Settles O14: only the body of a decoded instruction can change a byte, and it is a store with the byte in its span. -/
theorem memoryChangesOnlyInsideTheStoredSpan : Obligations.MemoryChangesOnlyInsideTheStoredSpan := by
  intro s t a h hchanged
  rcases cycle_cases h with ⟨e, -, rfl⟩ | ⟨-, -, rfl⟩ | ⟨-, -, i, u, hdecode, hexec, rfl⟩ | ⟨-, -, -, rfl⟩
  · exact absurd rfl hchanged
  · exact absurd rfl hchanged
  · obtain ⟨x, ⟨rfl, hspan⟩ | ⟨rfl, hspan⟩⟩ := exec_byte_changed hexec hchanged
    · exact ⟨x, .inl ⟨hdecode, hspan⟩⟩
    · exact ⟨x, .inr ⟨hdecode, hspan⟩⟩
  · exact absurd rfl hchanged

end Sys2Proof.Machine
end

section
/-! The host's calls and the stops of the model (spec/60_exceptions.md R276, R283, spec/70_reset_and_hazards.md R300 to
R304). -/

namespace Sys2Proof.Machine

/-! ## The host's side of every call -/

/-- The parameters and the host's schedule, which no answer to a call writes. -/
def HostKept (s t : State) : Prop := t.cfg = s.cfg ∧ t.calls = s.calls ∧ t.hostTurn = s.hostTurn

theorem cycle_keeps_host {s t : State} (h : cycle s = .next t) : HostKept s t := by
  rcases cycle_cases h with ⟨e, -, rfl⟩ | ⟨-, -, rfl⟩ | ⟨-, -, i, u, -, hexec, rfl⟩ | ⟨-, -, -, rfl⟩
  · exact ⟨rfl, rfl, rfl⟩
  · exact ⟨rfl, rfl, rfl⟩
  · obtain ⟨hcfg, hcalls, hturn, -⟩ := exec_hostSide hexec
    exact ⟨hcfg, hcalls, hturn⟩
  · exact ⟨rfl, rfl, rfl⟩

theorem tick_of_running {s : State} (h : s.halt = none) :
    tick s = { s with dt := countDown s.dt, st := countDown s.st, reply := .nothing } := by
  rw [tick, h]

theorem tick_of_halted {s : State} (h : s.halt ≠ none) : tick s = { s with reply := .nothing } := by
  obtain ⟨e, he⟩ := Option.ne_none_iff_exists'.mp h
  rw [tick, he]

theorem tick_keeps_host (s : State) : HostKept s (tick s) := by
  by_cases h : s.halt = none
  · rw [tick_of_running h]
    exact ⟨rfl, rfl, rfl⟩
  · rw [tick_of_halted h]
    exact ⟨rfl, rfl, rfl⟩

theorem load_of_fits {bytes : List Byte} {s : State} (hphase : s.phase = .beforeLoad) (h : bytes.length ≤ 3584) :
    load bytes s = .next { s.writeBytes 0x200 bytes with phase := .loaded, reply := .ok } := by
  have hfits : wfImage bytes = true := decide_eq_true h
  rw [load, if_pos hphase, if_pos hfits]

theorem load_of_overflow {bytes : List Byte} {s : State} (hphase : s.phase = .beforeLoad) (h : 3584 < bytes.length) :
    load bytes s = .next { s with reply := .loadOverflow bytes.length } := by
  have hover : ¬ wfImage bytes = true := fun hfits => Nat.not_lt.mpr (of_decide_eq_true hfits) h
  rw [load, if_pos hphase, if_neg hover]

theorem load_outside_boot {bytes : List Byte} {s : State} (hphase : s.phase ≠ .beforeLoad) :
    load bytes s = .refused .loadOutsideBoot := by
  rw [load, if_neg hphase]

/-- A load that answers came before a taken one and before the first cycle, and either put its image at 0x200 or wrote
nothing. -/
theorem load_cases {bytes : List Byte} {s t : State} (h : load bytes s = .next t) : s.phase = .beforeLoad ∧
    ((bytes.length ≤ 3584 ∧ t = { s.writeBytes 0x200 bytes with phase := .loaded, reply := .ok }) ∨
      t = { s with reply := .loadOverflow bytes.length }) := by
  by_cases hphase : s.phase = .beforeLoad
  · refine ⟨hphase, ?_⟩
    rcases Nat.lt_or_ge 3584 bytes.length with hover | hfits
    · rw [load_of_overflow hphase hover] at h
      exact .inr (Host.Outcome.next.inj h).symm
    · rw [load_of_fits hphase hfits] at h
      exact .inl ⟨hfits, (Host.Outcome.next.inj h).symm⟩
  · rw [load_outside_boot hphase] at h
    cases h

theorem answer_keeps_host {c : Call} {s t : State} (h : answer c s = .next t) : HostKept s t := by
  cases c with
  | load bytes =>
    obtain ⟨-, ⟨-, rfl⟩ | rfl⟩ := load_cases h
    · exact ⟨rfl, rfl, rfl⟩
    · exact ⟨rfl, rfl, rfl⟩
  | cycle => exact cycle_keeps_host h
  | tick =>
    cases h
    exact tick_keeps_host s
  | _ =>
    cases h
    exact ⟨rfl, rfl, rfl⟩

/-- A step that answers is the answer to the next call. -/
theorem answer_of_step {s t : State} (h : step s = .next t) : answer (nextCall s) s.takeCall = .next t :=
  (step_of_nextCall rfl).symm.trans h

/-- Settles O60: the step takes its own call, and the answer keeps the schedule that is left. -/
theorem everyStepTakesOneCallOfTheHost : Obligations.EveryStepTakesOneCallOfTheHost := by
  intro s t h
  obtain ⟨-, hcalls, hturn⟩ := answer_keeps_host (answer_of_step h)
  exact ⟨hcalls, hturn⟩

/-! ## The stops -/

theorem cycle_not_refused (s : State) (r : Refusal) : cycle s ≠ .refused r := by
  intro h
  cases hhost : hostHasStopped s with
  | true =>
    rw [cycle_of_hostStopped hhost] at h
    cases h
  | false =>
    obtain ⟨t, hnext⟩ := cycle_answers hhost
    rw [hnext] at h
    cases h

theorem hostHasStopped_of_cycle_fault {s : State} {r : Fault} (h : cycle s = .fault r) : hostHasStopped s = true := by
  cases hhost : hostHasStopped s with
  | true => rfl
  | false =>
    obtain ⟨t, hnext⟩ := cycle_answers hhost
    rw [hnext] at h
    cases h

theorem load_not_fault (bytes : List Byte) (s : State) (r : Fault) : load bytes s ≠ .fault r := by
  unfold load
  split
  · split <;> exact nofun
  · exact nofun

theorem answer_fault {c : Call} {s : State} {r : Fault} (h : answer c s = .fault r) : hostHasStopped s = true := by
  cases c with
  | load bytes => exact absurd h (load_not_fault bytes s r)
  | cycle => exact hostHasStopped_of_cycle_fault h
  | _ => cases h

theorem answer_refused {c : Call} {s : State} {r : Refusal} (h : answer c s = .refused r) :
    (∃ bytes, c = .load bytes) ∧ s.phase ≠ .beforeLoad := by
  cases c with
  | load bytes =>
    refine ⟨⟨bytes, rfl⟩, fun hphase => ?_⟩
    rcases Nat.lt_or_ge 3584 bytes.length with hover | hfits
    · cases h.symm.trans (load_of_overflow hphase hover)
    · cases h.symm.trans (load_of_fits hphase hfits)
  | cycle => exact absurd h (cycle_not_refused s r)
  | _ => cases h

/-- Settles O18: only a Cycle faults, when the host has stopped, and only a late Load is refused. -/
theorem stepStopsOnlyByTheHost : Obligations.StepStopsOnlyByTheHost := by
  intro s
  have hstep : step s = answer (nextCall s) s.takeCall := step_of_nextCall rfl
  refine ⟨fun r h => ?_, fun r h => ?_, fun t h => ?_⟩
  · rw [← hostHasStopped_iff, ← hostHasStopped_takeCall]
    exact answer_fault (hstep.symm.trans h)
  · obtain ⟨hload, hphase⟩ := answer_refused (hstep.symm.trans h)
    exact ⟨hload, by rwa [State.takeCall_phase] at hphase⟩
  · obtain ⟨hcfg, -, -⟩ := answer_keeps_host (answer_of_step h)
    rw [hcfg, State.takeCall_cfg]

/-! ## Tick and AckDisplay -/

theorem countDown_toNat (b : Byte) : (countDown b).toNat = b.toNat - 1 := by
  by_cases hb : b = 0
  · rw [countDown, if_pos hb, hb]
    rfl
  · have hpos : 0 < b.toNat := Nat.pos_of_ne_zero fun h => hb (BitVec.eq_of_toNat_eq h)
    have hlt := b.isLt
    rw [countDown, if_neg hb, sub_toNat, show (1 : Byte).toNat = 1 from rfl]
    omega

/-- Settles O22: a running core counts both timers down, saturating at 0, and a halted one keeps them. -/
theorem tickCountsBothTimersDown : Obligations.TickCountsBothTimersDown := by
  intro s hcall
  refine ⟨tick s.takeCall, step_of_nextCall hcall, (core_tick s.takeCall).of_takeCall, fun hrun => ?_, fun hhalted => ?_⟩
  · rw [tick_of_running (by rwa [State.takeCall_halt])]
    simp [countDown_toNat]
  · rw [tick_of_halted (by rwa [State.takeCall_halt])]
    exact ⟨s.takeCall_dt, s.takeCall_st⟩

/-- Settles O25: the answer writes DIRTY and the result. -/
theorem ackDisplayClearsDirty : Obligations.AckDisplayClearsDirty := fun s hcall =>
  ⟨ackDisplay s.takeCall, step_of_nextCall hcall, (core_ackDisplay s.takeCall).of_takeCall, rfl⟩

/-! ## Load -/

/-- Settles O26: 3584 bytes at 0x200 end at 0x1000, so an image that fits is written as a span inside memory. -/
theorem loadCopiesTheImageOrRejectsIt : Obligations.LoadCopiesTheImageOrRejectsIt := by
  intro s bytes hwf hphase hcall
  have hphase' : s.takeCall.phase = .beforeLoad := by rwa [State.takeCall_phase]
  refine ⟨fun hfits => ?_, fun hover => ?_⟩
  · have hload := load_of_fits hphase' hfits
    refine ⟨_, (step_of_nextCall hcall).trans hload, (core_load hload).of_takeCall, rfl, fun k hk => ?_, fun a ha => ?_⟩
    · exact State.readByte_writeBytes_inside (s := s.takeCall) (by simpa using hwf) (by omega) k hk
    · exact (State.readByte_writeBytes_outside (s := s.takeCall) ha).trans (s.readByte_takeCall a)
  · exact ⟨_, (step_of_nextCall hcall).trans (load_of_overflow hphase' hover),
      (core_sessionRecord s.takeCall _ _ _).of_takeCall, rfl⟩

/-- Settles O27: the phase is the first thing a Load tests. -/
theorem loadOutsideBootIsRefused : Obligations.LoadOutsideBootIsRefused := by
  intro s bytes hphase hcall
  rw [step_of_nextCall hcall]
  exact load_outside_boot (by rwa [State.takeCall_phase])

/-! ## Reset -/

theorem readByte_restart_font (s : State) {a : Nat} (h : a < 80) : (restart s).readByte a = s.cfg.fontTable[a] :=
  dif_pos h

theorem readByte_restart_above (s : State) {a : Nat} (h : 80 ≤ a) : (restart s).readByte a = 0x00 :=
  dif_neg (Nat.not_lt.mpr h)

theorem resetTable_restart (s : State) : ResetTable (restart s) :=
  ⟨fun _ h => readByte_restart_font s h, fun _ h => readByte_restart_above s h,
    fun x => by simp [State.reg, restart, State.reset], rfl, rfl,
    fun k => by simp [restart, State.reset], rfl, rfl, rfl,
    fun k => by simp [State.keyDown, restart, State.reset],
    fun c r => by simp [Display.cell, restart, State.reset], rfl, rfl⟩

/-- Settles O28: the reset state is what a Reset makes of itself, and a Reset keeps the parameters, the draws and the
schedule. -/
theorem resetSetsEveryComponent : Obligations.ResetSetsEveryComponent := by
  refine ⟨resetTable_restart State.reset, fun s hcall => ?_⟩
  exact ⟨restart s.takeCall, step_of_nextCall hcall, resetTable_restart s.takeCall, s.takeCall_cfg, s.takeCall_draws,
    rfl, rfl⟩

end Sys2Proof.Machine
end

section
/-! The machine's invariant (spec/20_memory.md R55 to R58, spec/10_state.md R24 to R30): every call and every body keeps
each of its clauses. -/

namespace Sys2Proof.Machine

/-! ## Memory under a body -/

theorem State.mem_of_push {s t : State} {a : Word} (h : s.push a = some t) : t.mem = s.mem := by
  unfold State.push at h
  split at h <;> cases h
  rfl

theorem State.mem_of_pop {s t : State} {a : Word} (h : s.pop = some (a, t)) : t.mem = s.mem := by
  unfold State.pop at h
  split at h <;> cases h
  rfl

theorem checked_mem {check : Option FatalError} {s body t : State} (h : checked check s body = .next t)
    (hbody : body.mem = s.mem) : t.mem = s.mem := by
  rcases checked_cases h with ⟨e, -, rfl⟩ | ⟨-, rfl⟩
  · rfl
  · exact hbody

theorem skipOnKey_mem {pressed : Bool} {x : Reg} {s t : State} (h : skipOnKey pressed x s = .next t) :
    t.mem = s.mem := by
  rcases skipOnKey_cases pressed x s with hraise | ⟨c, hskip⟩
  · cases h.symm.trans hraise
    rfl
  · cases h.symm.trans hskip
    exact State.skipIf_mem s c

theorem execRet_mem {s t : State} (h : execRet s = .next t) : t.mem = s.mem := by
  unfold execRet at h
  split at h <;> cases h
  · rfl
  · next hpop => exact (State.setPc_mem _ _).trans (State.mem_of_pop hpop)

theorem execCallNnn_mem {nnn : Addr12} {s t : State} (h : execCallNnn nnn s = .next t) : t.mem = s.mem := by
  unfold execCallNnn at h
  split at h <;> cases h
  · rfl
  · next hpush => exact (State.setPc_mem _ _).trans (State.mem_of_push hpush)

/-- `t` is `s` after a permitted store at I. -/
def PermittedStore (s t : State) : Prop :=
  ∃ bytes : List Byte, StorePermitted s bytes.length ∧ t = s.writeBytes s.index.toNat bytes

theorem storeAtIndex_mem_cases {bytes : List Byte} {s t : State} (h : storeAtIndex bytes s = .next t)
    (hne : bytes.length ≠ 0) : t.mem = s.mem ∨ PermittedStore s t := by
  rcases storeAtIndex_cases h hne with ⟨e, rfl⟩ | ⟨hspan, hfont, ht⟩
  · exact .inl rfl
  · exact .inr ⟨bytes, ⟨hspan, hfont⟩, ht⟩

/-- A body leaves memory the same list, or is a permitted store. -/
theorem exec_mem_cases {i : Instr} {s t : State} (h : exec i s = .next t) : t.mem = s.mem ∨ PermittedStore s t := by
  cases i with
  | ldBVx x => exact storeAtIndex_mem_cases h (by simp [bcdDigits])
  | ldMemIVx x => exact storeAtIndex_mem_cases h (by simp [State.regsUpTo_length])
  | ret => exact .inl (execRet_mem h)
  | callNnn nnn => exact .inl (execCallNnn_mem h)
  | skpVx x => exact .inl (skipOnKey_mem h)
  | sknpVx x => exact .inl (skipOnKey_mem h)
  | seVxNn x nn => cases h; exact .inl (State.skipIf_mem s _)
  | sneVxNn x nn => cases h; exact .inl (State.skipIf_mem s _)
  | seVxVy x y => cases h; exact .inl (State.skipIf_mem s _)
  | sneVxVy x y => cases h; exact .inl (State.skipIf_mem s _)
  | ldVxK x =>
    rcases exec_ldVxK_cases s x with ⟨b, htake⟩ | hwait
    · cases h.symm.trans htake; exact .inl rfl
    · cases h.symm.trans hwait; exact .inl rfl
  | addIVx x =>
    rcases exec_addIVx_cases s x with hraise | ⟨a, hwrite, -⟩
    · cases h.symm.trans hraise; exact .inl rfl
    · cases h.symm.trans hwrite; exact .inl rfl
  | drwVxVyN x y n => exact .inl (checked_mem h rfl)
  | ldVxMemI x => exact .inl (checked_mem h rfl)
  | _ => cases h; exact .inl rfl

theorem exec_keeps_canonical {i : Instr} {s t : State} (h : exec i s = .next t)
    (hwf : Memory.wf s.cfg.fontTable s.mem = true) : Memory.wf t.cfg.fontTable t.mem = true := by
  obtain ⟨hcfg, -⟩ := exec_hostSide h
  rw [hcfg]
  rcases exec_mem_cases h with hmem | ⟨bytes, ⟨hspan, -⟩, rfl⟩
  · rwa [hmem]
  · exact Memory.wf_writeSpan hwf hspan

/-- A store that is permitted under the policy `fault` starts above the font. -/
theorem exec_keeps_font {i : Instr} {s t : State} (h : exec i s = .next t) (hpolicy : s.cfg.fontWrite = .fault)
    {a : Nat} (ha : a < 80) : t.readByte a = s.readByte a := by
  obtain ⟨hcfg, -⟩ := exec_hostSide h
  rcases exec_mem_cases h with hmem | ⟨bytes, ⟨-, hfont⟩, rfl⟩
  · rw [State.readByte, hmem, hcfg, State.readByte]
  · have hlow := hfont hpolicy
    exact State.readByte_writeBytes_outside (.inl (by omega))

/-! ## I under a body -/

theorem exec_index_le {i : Instr} {s t : State} (h : exec i s = .next t) (hpolicy : s.cfg.indexAdd ≠ .wrap16)
    (hindex : s.index.toNat ≤ 0xFFF) : t.index.toNat ≤ 0xFFF := by
  by_cases hlisted : Component.index ∈ changedBy i
  case neg =>
    have hsame : t.index = s.index := exec_same h hlisted (by decide)
    rwa [hsame]
  rcases index_mem_changedBy hlisted with ⟨nnn, rfl⟩ | ⟨x, rfl⟩ | ⟨x, rfl⟩
  · cases h
    have hnnn := nnn.isLt
    rw [State.setIndex_index, zextAddr_toNat]
    omega
  · rcases exec_addIVx_cases s x with hraise | ⟨a, hwrite, haddress⟩
    · cases h.symm.trans hraise
      exact hindex
    · cases h.symm.trans hwrite
      exact haddress hpolicy
  · cases h
    rw [State.setIndex_index, glyphAddress_toNat]
    omega

/-! ## The call stack under a body -/

theorem exec_stack_le {i : Instr} {s t : State} (h : exec i s = .next t) (hpc : s.pc.toNat ≤ 0x1000)
    (hstack : ∀ k : Fin 16, s.stack[k].toNat ≤ 0x1000) (k : Fin 16) : t.stack[k].toNat ≤ 0x1000 := by
  by_cases hlisted : Component.stack ∈ changedBy i
  case neg =>
    have hsame : t.stack = s.stack := exec_same h hlisted (by decide)
    rw [hsame]
    exact hstack k
  obtain ⟨nnn, rfl⟩ := stack_mem_changedBy hlisted
  rcases Nat.lt_or_ge s.sp.val 16 with hroom | hfull
  · obtain ⟨u, hu, -, -, hslot, hothers, -⟩ := exec_callNnn_room nnn hroom
    obtain rfl : t = u := Host.Outcome.next.inj (h.symm.trans hu)
    by_cases hk : k.val = s.sp.val
    · simp only [← hk] at hslot
      have hpushed : t.stack[k] = s.pc := hslot
      rwa [hpushed]
    · rw [hothers k hk]
      exact hstack k
  · cases h.symm.trans (exec_callNnn_full nnn (by omega))
    exact hstack k

/-! ## `pc` under a body -/

theorem skipIf_pc_le {s : State} (c : Bool) (hpc : s.pc.toNat ≤ 0x1000) : (s.skipIf c).pc.toNat ≤ 0x10FE := by
  rw [State.skipIf_pc]
  split
  · rw [BitVec.toNat_add, show (2 : Word).toNat = 2 from rfl]
    omega
  · omega

theorem skipOnKey_pc_le {pressed : Bool} {x : Reg} {s t : State} (h : skipOnKey pressed x s = .next t)
    (hpc : s.pc.toNat ≤ 0x1000) : t.pc.toNat ≤ 0x10FE := by
  rcases skipOnKey_cases pressed x s with hraise | ⟨c, hskip⟩
  · cases h.symm.trans hraise
    exact Nat.le_trans hpc (by decide)
  · cases h.symm.trans hskip
    exact skipIf_pc_le c hpc

/-- From an advanced `pc`, the farthest a body goes is BNNN's 0xFFF + 0xFF. -/
theorem exec_pc_le {i : Instr} {s t : State} (h : exec i s = .next t) (hlow : 2 ≤ s.pc.toNat)
    (hpc : s.pc.toNat ≤ 0x1000) (hstack : ∀ k : Fin 16, s.stack[k].toNat ≤ 0x1000) : t.pc.toNat ≤ 0x10FE := by
  have hkept (hsame : t.pc = s.pc) : t.pc.toNat ≤ 0x10FE := by
    rw [hsame]
    omega
  cases i with
  | jpNnn nnn =>
    cases h
    have hnnn := nnn.isLt
    rw [State.setPc_pc, zextAddr_toNat]
    omega
  | jpV0Nnn nnn =>
    cases h
    have hnnn := nnn.isLt
    have hv := (s.reg 0).isLt
    rw [State.setPc_pc, offsetTarget_toNat]
    omega
  | callNnn nnn =>
    rcases Nat.lt_or_ge s.sp.val 16 with hroom | hfull
    · obtain ⟨u, hu, htarget, -⟩ := exec_callNnn_room nnn hroom
      obtain rfl : t = u := Host.Outcome.next.inj (h.symm.trans hu)
      have hnnn := nnn.isLt
      omega
    · cases h.symm.trans (exec_callNnn_full nnn (by omega))
      exact hkept rfl
  | ret =>
    rcases Nat.eq_zero_or_pos s.sp.val with hempty | hused
    · cases h.symm.trans (exec_ret_empty hempty)
      exact hkept rfl
    · obtain ⟨u, hu, htarget, -⟩ := exec_ret_used hused
      obtain rfl : t = u := Host.Outcome.next.inj (h.symm.trans hu)
      rw [htarget]
      exact Nat.le_trans (hstack ⟨s.sp.val - 1, by omega⟩) (by decide)
  | seVxNn x nn => cases h; exact skipIf_pc_le _ hpc
  | sneVxNn x nn => cases h; exact skipIf_pc_le _ hpc
  | seVxVy x y => cases h; exact skipIf_pc_le _ hpc
  | sneVxVy x y => cases h; exact skipIf_pc_le _ hpc
  | skpVx x => exact skipOnKey_pc_le h hpc
  | sknpVx x => exact skipOnKey_pc_le h hpc
  | ldVxK x =>
    rcases exec_ldVxK_cases s x with ⟨b, htake⟩ | hwait
    · cases h.symm.trans htake
      exact hkept rfl
    · cases h.symm.trans hwait
      rw [State.setPc_pc, BitVec.toNat_sub_of_le hlow, show (2 : Word).toNat = 2 from rfl]
      omega
  | _ => exact hkept (exec_same (c := .pc) h (by simp [changedBy]) (by decide))

/-! ## The invariant under each call -/

/-- What the invariant speaks of, besides HALT, is as it was. -/
theorem MachineInv.of_same {s t : State} (hinv : MachineInv s) (hcfg : t.cfg = s.cfg) (hmem : t.mem = s.mem)
    (hindex : t.index = s.index) (hpc : t.pc = s.pc) (hstack : t.stack = s.stack)
    (hrun : t.halt ≠ none → t.phase = .running) : MachineInv t where
  memCanonical := by rw [hcfg, hmem]; exact hinv.memCanonical
  fontIntact := by
    simp only [State.readByte, hcfg, hmem]
    exact hinv.fontIntact
  indexInRange := by rw [hcfg, hindex]; exact hinv.indexInRange
  pcInRange := by rw [hpc]; exact hinv.pcInRange
  stackInRange := by rw [hstack]; exact hinv.stackInRange
  haltedHasRun := hrun

theorem machineInv_restart (s : State) : MachineInv (restart s) where
  memCanonical := rfl
  fontIntact := fun _ _ h => readByte_restart_font s h
  indexInRange := fun _ => Nat.zero_le _
  pcInRange := (by decide : (0x0200 : Word).toNat ≤ 0x10FE)
  stackInRange := fun k => by simp [restart, State.reset]
  haltedHasRun := fun h => absurd rfl h

/-- Settles O20: the reset state is what a Reset makes of itself. -/
theorem resetMeetsMachineInvariant : Obligations.ResetMeetsMachineInvariant := machineInv_restart State.reset

theorem MachineInv.after_takeCall {s : State} (hinv : MachineInv s) : MachineInv s.takeCall :=
  hinv.of_same s.takeCall_cfg s.takeCall_mem s.takeCall_index s.takeCall_pc s.takeCall_stack (by
    rw [State.takeCall_halt, State.takeCall_phase]
    exact hinv.haltedHasRun)

theorem MachineInv.after_tick {s : State} (hinv : MachineInv s) : MachineInv (tick s) := by
  by_cases h : s.halt = none
  · rw [tick_of_running h]
    exact hinv.of_same rfl rfl rfl rfl rfl hinv.haltedHasRun
  · rw [tick_of_halted h]
    exact hinv.of_same rfl rfl rfl rfl rfl hinv.haltedHasRun

/-- An image lies above the font and ends inside memory. -/
theorem MachineInv.after_load {bytes : List Byte} {s t : State} (hinv : MachineInv s) (h : load bytes s = .next t) :
    MachineInv t := by
  obtain ⟨hphase, ⟨hfits, rfl⟩ | rfl⟩ := load_cases h
  · exact {
      memCanonical := Memory.wf_writeSpan hinv.memCanonical (by omega)
      fontIntact := fun hpolicy a ha =>
        (State.readByte_writeBytes_outside (s := s) (.inl (by omega))).trans (hinv.fontIntact hpolicy a ha)
      indexInRange := hinv.indexInRange
      pcInRange := hinv.pcInRange
      stackInRange := hinv.stackInRange
      haltedHasRun := fun hhalt => absurd (hphase.symm.trans (hinv.haltedHasRun hhalt)) (by decide) }
  · exact hinv.of_same rfl rfl rfl rfl rfl hinv.haltedHasRun

/-- A fetched body runs with `pc` between 2 and 0x1000, in a session that is running. -/
theorem MachineInv.after_body {i : Instr} {s t : State} (hinv : MachineInv s) (hfetch : s.pc.toNat ≤ 0xFFE)
    (h : exec i (advance s) = .next t) : MachineInv t := by
  have hadvanced : (advance s).pc.toNat = s.pc.toNat + 2 := by
    rw [advance_pc, BitVec.toNat_add, show (2 : Word).toNat = 2 from rfl]
    omega
  obtain ⟨hcfg, -, -, -, -, hphase⟩ := exec_hostSide h
  exact {
    memCanonical := exec_keeps_canonical h hinv.memCanonical
    fontIntact := by
      rw [hcfg]
      exact fun hpolicy a ha => (exec_keeps_font h hpolicy ha).trans (hinv.fontIntact hpolicy a ha)
    indexInRange := by
      rw [hcfg]
      exact fun hpolicy => exec_index_le h hpolicy (hinv.indexInRange hpolicy)
    pcInRange := exec_pc_le h (by omega) (by omega) hinv.stackInRange
    stackInRange := exec_stack_le h (by omega) hinv.stackInRange
    haltedHasRun := fun _ => hphase }

theorem MachineInv.after_cycle {s t : State} (hinv : MachineInv s) (h : cycle s = .next t) : MachineInv t := by
  rcases cycle_cases h with ⟨e, -, rfl⟩ | ⟨-, -, rfl⟩ | ⟨-, hfetch, i, u, -, hexec, rfl⟩ | ⟨-, hfetch, -, rfl⟩
  · exact hinv.of_same rfl rfl rfl rfl rfl hinv.haltedHasRun
  · exact hinv.of_same rfl rfl rfl rfl rfl fun _ => rfl
  · have hbody := hinv.after_body hfetch hexec
    exact hbody.of_same rfl rfl rfl rfl rfl hbody.haltedHasRun
  · have hadvanced : (advance s).pc.toNat ≤ 0x10FE := by
      rw [advance_pc, BitVec.toNat_add, show (2 : Word).toNat = 2 from rfl]
      omega
    exact { hinv with pcInRange := hadvanced, haltedHasRun := fun _ => rfl }

theorem MachineInv.after_answer {c : Call} {s t : State} (hinv : MachineInv s) (h : answer c s = .next t) :
    MachineInv t := by
  cases c with
  | reset =>
    cases h
    exact machineInv_restart s
  | load bytes => exact hinv.after_load h
  | cycle => exact hinv.after_cycle h
  | tick =>
    cases h
    exact hinv.after_tick
  | setKey k pressed =>
    cases h
    exact hinv.of_same rfl rfl rfl rfl rfl hinv.haltedHasRun
  | readDisplay =>
    cases h
    exact hinv.of_same rfl rfl rfl rfl rfl hinv.haltedHasRun
  | ackDisplay =>
    cases h
    exact hinv.of_same rfl rfl rfl rfl rfl hinv.haltedHasRun

/-- Settles O19: taking the call and answering it both keep the invariant. -/
theorem stepKeepsMachineInvariant : Obligations.StepKeepsMachineInvariant := fun _ _ hinv h =>
  hinv.after_takeCall.after_answer (answer_of_step h)

/-! ## The halted state -/

/-- A halted core's cycle only repeats its error, its tick does nothing, and a Load is refused, as the invariant says
that a halted session is a running one; the other calls write KEY and DIRTY. -/
theorem halted_answer_core {c : Call} {s t : State} {e : FatalError} (hinv : MachineInv s) (hhalt : s.halt = some e)
    (hnotReset : c ≠ .reset) (h : answer c s = .next t) : CoreUnchangedExcept [.key, .dirty] s t := by
  have hhalted : s.halt ≠ none := Option.ne_none_iff_exists'.mpr ⟨e, hhalt⟩
  cases c with
  | reset => exact absurd rfl hnotReset
  | load bytes =>
    obtain ⟨hphase, -⟩ := load_cases h
    exact absurd (hphase.symm.trans (hinv.haltedHasRun hhalted)) (by decide)
  | cycle =>
    rcases cycle_cases h with ⟨e', -, rfl⟩ | ⟨hrun, -⟩ | ⟨hrun, -⟩ | ⟨hrun, -⟩
    · exact (core_sessionRecord s _ _ _).mono (by decide)
    · exact absurd hrun hhalted
    · exact absurd hrun hhalted
    · exact absurd hrun hhalted
  | tick =>
    cases h
    rw [tick_of_halted hhalted]
    exact (core_sessionRecord s _ _ _).mono (by decide)
  | setKey k pressed =>
    cases h
    exact (core_setKey k pressed s).mono (by decide)
  | readDisplay =>
    cases h
    exact (core_readDisplay s).mono (by decide)
  | ackDisplay =>
    cases h
    exact (core_ackDisplay s).mono (by decide)

/-- Settles O21: taking the call keeps the core and the invariant, and the answer leaves HALT. -/
theorem onlyResetLeavesTheHaltedState : Obligations.OnlyResetLeavesTheHaltedState := by
  intro s t e hinv hhalt hnotReset h
  have hhalted : s.takeCall.halt = some e := by rwa [State.takeCall_halt]
  have hcore := halted_answer_core hinv.after_takeCall hhalted hnotReset (answer_of_step h)
  have hkept : t.halt = s.takeCall.halt := hcore .halt (by decide)
  exact ⟨hkept.trans hhalted, hcore.of_takeCall⟩

end Sys2Proof.Machine
end
